-- ==== Sys2Proof/Word.lean ====
section
/-! DEFINITION. The machine's words: the cell widths of the nine address spaces (20_memory.md R70) and the widths of
the encoded objects (30_encoding.md R100). -/

namespace Sys2Proof

/-- One word of the register space, and one command word (R22, R101): 32 bits. -/
abbrev Word := BitVec 32

/-- One cell of a frame buffer (R47): 8 bits. -/
abbrev Byte := BitVec 8

/-- One cell of a plane memory (R48): 16 bits, read as signed two's complement. -/
abbrev Sample := BitVec 16

/-- A 48-bit sum, held over two registers (R34, R37). -/
abbrev Sum48 := BitVec 48

/-- A format tag (R106): 8 bits. -/
abbrev Tag := BitVec 8

end Sys2Proof
end

