-- ==== Sys2Proof/Syntax.lean ====
section
/-! DEFINITION. The syntax: the sixteen rows of spec/opcode_table.json as `Instr`, the encoded objects of
30_encoding.md R100 as `Code`, and the host's accesses (R70, R75, R112) as `Access`. -/

namespace Sys2Proof

/-- The two sides of a comparison (R13): A is the first file, B the second. -/
inductive Side where
  | a
  | b
deriving DecidableEq, Repr

/-- The three planes of a frame (R13): `Y = 0`, `CB = 1`, `CR = 2`. -/
inductive Plane where
  | y
  | cb
  | cr
deriving DecidableEq, Repr

/-- The two registers that hold a format tag (R27): `FMT_IN` and `FMT_OUT`. -/
inductive TagRegister where
  | input
  | output
deriving DecidableEq, Repr

/-- One constructor per row of the opcode table: the six commands (R103), the pseudo-command `FRAME` (R113), the illegal
words (R105), the seven format descriptors (R140 to R146) and the unsupported tags (R107). -/
inductive Instr where
  /-- `NOP`, R230. -/
  | nop
  /-- `INIT`, R130. -/
  | init
  /-- `EXT side`, R170. -/
  | ext (side : Side)
  /-- `SCORE`, R190. -/
  | score
  /-- `FIN`, R202. -/
  | fin
  /-- `SRST`, R231. -/
  | srst
  /-- The pseudo-command `FRAME`, R113 and R232. -/
  | frame
  /-- A command word that is none of the seven legal ones, R105. -/
  | illegal (word : Word)
  /-- The descriptor of tag 0, R140. -/
  | yv12
  /-- The descriptor of tag 1, R141. -/
  | iyuv
  /-- The descriptor of tag 2, R142. -/
  | nv12
  /-- The descriptor of tag 3, R143. -/
  | uyvy
  /-- The descriptor of tag 4, R144. -/
  | yvyu
  /-- The descriptor of tag 5, R145. -/
  | yuy2
  /-- The descriptor of tag 6, R146. -/
  | y422
  /-- A tag above 6 in one of the two tag registers, R107. -/
  | unsupportedTag (reg : TagRegister) (tag : Tag)
deriving DecidableEq, Repr

/-- The encoded objects (R100): a command word, a format tag in one of its two registers, and the command words a
pseudo-command stands for (R113). -/
inductive Code where
  | cmd32 (word : Word)
  | tag8 (reg : TagRegister) (tag : Tag)
  | expansion (words : List Word)
deriving DecidableEq, Repr

/-- One event at the block's one port (R75, R80): a whole-cell access of the host, the pseudo-command `FRAME` of the host
notation (R112), or the platform's hardware reset (R300). A write of register 0 (`CMD`) is a command (R24). -/
inductive Access where
  /-- `WR`: write a 32-bit word to the register of this index. -/
  | writeReg (index : Fin 64) (value : Word)
  /-- `RD`: read the register of this index. -/
  | readReg (index : Fin 64)
  /-- Write one byte of a frame buffer. -/
  | writeFb (side : Side) (addr : Nat) (value : Byte)
  /-- Read one byte of a frame buffer. -/
  | readFb (side : Side) (addr : Nat)
  /-- Read one sample of a plane memory (the host cannot write one, R48). -/
  | readPl (side : Side) (plane : Plane) (index : Nat)
  /-- The line `FRAME` of the host notation. -/
  | frame
  /-- The platform asserts hardware reset. -/
  | hardwareReset
deriving DecidableEq, Repr

/-- What one host read returns: one cell of the space it reads (R75). -/
inductive CellValue where
  | reg (value : Word)
  | byte (value : Byte)
  | sample (value : Sample)
deriving DecidableEq, Repr

end Sys2Proof
end

