-- ==== Sys2Proof/WellFormed.lean ====
section
/-! DEFINITION. Which terms of `Instr` stand for a row of the opcode table: an `illegal` carries none of the seven legal
words, an `unsupportedTag` carries a tag above 6. -/

namespace Sys2Proof

/-- "the seven legal command words" (30_encoding.md R103). -/
def legalWords : List Word :=
  [0x00000000#32, 0x00000001#32, 0x00000002#32, 0x00000102#32, 0x00000003#32, 0x00000004#32, 0x0000000F#32]

/-- A term is well formed when its operand is one its row's encoding admits (R105, R107). -/
def Instr.wf : Instr → Bool
  | .illegal w => !legalWords.contains w
  | .unsupportedTag _ t => decide (6 < t.toNat)
  | .nop => true
  | .init => true
  | .ext _ => true
  | .score => true
  | .fin => true
  | .srst => true
  | .frame => true
  | .yv12 => true
  | .iyuv => true
  | .nv12 => true
  | .uyvy => true
  | .yvyu => true
  | .yuy2 => true
  | .y422 => true

end Sys2Proof
end

