-- ==== Sys2Proof/Decode.lean ====
section
/-! DEFINITION. Decoding and encoding (30_encoding.md R100 to R107, R113). Every command word and every tag decodes to an
instruction (the decode is total, R104); a list of words that is not the expansion of `FRAME` is rejected by name. -/

namespace Sys2Proof

/-- `op`, bits 7:0 of a command word (R101). -/
def opField (c : Word) : BitVec 8 := c.extractLsb' 0 8

/-- `side`, bit 8 of a command word (R101). -/
def sideField (c : Word) : Bool := c.getLsbD 8

/-- `zero`, bits 31:9 of a command word (R101). -/
def zeroField (c : Word) : BitVec 23 := c.extractLsb' 9 23

/-- The side an operand bit names (R102): 0 is A, 1 is B. -/
def sideOfBit (bit : Bool) : Side := if bit then .b else .a

/-- The table of R103: the command of an operation code, with `side` the operand of `EXT`. -/
def commandOfOp (op : BitVec 8) (side : Bool) : Option Instr :=
  if op = 0x00#8 then some .nop
  else if op = 0x01#8 then some .init
  else if op = 0x02#8 then some (.ext (sideOfBit side))
  else if op = 0x03#8 then some .score
  else if op = 0x04#8 then some .fin
  else if op = 0x0F#8 then some .srst
  else none

/-- The commands that carry the operand `side` (R102): `EXT` alone. -/
def takesSide : Instr → Bool
  | .ext _ => true
  | _ => false

/-- Decoding a command word, in the order of R104: bits 31:9, then the operation code, then bit 8. -/
def decodeCmd (c : Word) : Instr :=
  if zeroField c ≠ 0#23 then .illegal c
  else
    match commandOfOp (opField c) (sideField c) with
    | none => .illegal c
    | some i => if !takesSide i && sideField c then .illegal c else i

/-- Decoding a format tag (R106, R107). `reg` is the register the tag stands in, which an unsupported tag keeps. -/
def decodeTag (reg : TagRegister) (t : Tag) : Instr :=
  if t = 0#8 then .yv12
  else if t = 1#8 then .iyuv
  else if t = 2#8 then .nv12
  else if t = 3#8 then .uyvy
  else if t = 4#8 then .yvyu
  else if t = 5#8 then .yuy2
  else if t = 6#8 then .y422
  else .unsupportedTag reg t

/-- The expansion of `FRAME` (R113): `EXT A`, `EXT B`, `SCORE`. -/
def frameWords : List Word := [0x00000002#32, 0x00000102#32, 0x00000003#32]

/-- Why a code is rejected. -/
inductive DecodeError where
  /-- The words are not the expansion of `FRAME`, the one pseudo-command (R113). -/
  | notAPseudoCommand
deriving DecidableEq, Repr

/-- Decoding, total on every encoded object of R100. -/
def decode : Code → Except DecodeError Instr
  | .cmd32 c => .ok (decodeCmd c)
  | .tag8 reg t => .ok (decodeTag reg t)
  | .expansion ws => if ws = frameWords then .ok .frame else .error .notAPseudoCommand

/-- The command word of `EXT side` (R103). -/
def extWord : Side → Word
  | .a => 0x00000002#32
  | .b => 0x00000102#32

/-- The command word of `SCORE` (R103). -/
def scoreWord : Word := 0x00000003#32

/-- The command word of `FIN` (R103). -/
def finWord : Word := 0x00000004#32

/-- The command word of `INIT` (R103). -/
def initWord : Word := 0x00000001#32

/-- The command word of `SRST` (R103). -/
def srstWord : Word := 0x0000000F#32

/-- The encoded object of an instruction (R103, R106, R107, R113). -/
def encode : Instr → Code
  | .nop => .cmd32 0x00000000#32
  | .init => .cmd32 initWord
  | .ext side => .cmd32 (extWord side)
  | .score => .cmd32 scoreWord
  | .fin => .cmd32 finWord
  | .srst => .cmd32 srstWord
  | .frame => .expansion frameWords
  | .illegal w => .cmd32 w
  | .yv12 => .tag8 .input 0#8
  | .iyuv => .tag8 .input 1#8
  | .nv12 => .tag8 .input 2#8
  | .uyvy => .tag8 .input 3#8
  | .yvyu => .tag8 .input 4#8
  | .yuy2 => .tag8 .input 5#8
  | .y422 => .tag8 .input 6#8
  | .unsupportedTag reg t => .tag8 reg t

/-- The encoded object that `nbits` bits of the opcode table hold: 8 bits are a tag of `FMT_IN` (`TAG8`), 32 a command
word (`CMD32`), 96 the three words of a pseudo-command, the first in bits 31:0 (DEDUCED, log entries 7 and 16). -/
def codeOfTableWord (nbits w : Nat) : Option Code :=
  if nbits = 8 then some (.tag8 .input (BitVec.ofNat 8 w))
  else if nbits = 32 then some (.cmd32 (BitVec.ofNat 32 w))
  else if nbits = 96 then
    some (.expansion [BitVec.ofNat 32 w, BitVec.ofNat 32 (w >>> 32), BitVec.ofNat 32 (w >>> 64)])
  else none

/-- The instruction the decoder reads from `nbits` bits of the opcode table. -/
def decodeTableWord (nbits w : Nat) : Option Instr :=
  match codeOfTableWord nbits w with
  | none => none
  | some code =>
    match decode code with
    | .ok i => some i
    | .error _ => none

end Sys2Proof
end

