-- ==== Sys2Proof/Config.lean ====
section
/-! DEFINITION. What the spec leaves to the implementation: the parameter `FB_BYTES` (00_scope.md R6), and the contents of
cells nothing has written (20_memory.md R79), which are free values. -/

namespace Sys2Proof

/-- The parameter the spec leaves OPEN that the block's behaviour depends on (R6). -/
structure Config where
  /-- `FB_BYTES`: the capacity in cells of each frame buffer and each plane memory. -/
  fbBytes : Nat
deriving DecidableEq, Repr

/-- "must satisfy `1 <= FB_BYTES <= 2^32 - 1`" (R6). -/
abbrev Config.wf (c : Config) : Prop := 1 ≤ c.fbBytes ∧ c.fbBytes ≤ 2 ^ 32 - 1

/-- The default of R6, `2^24`. DESIGN CHOICE, log entry 1. -/
def Config.default : Config := { fbBytes := 2 ^ 24 }

/-- FREE VALUE: the byte a frame-buffer cell holds that nothing has written since the `n`-th power-on (R79, R302). No
proof can know one. DEDUCED, log entry 2. -/
opaque Config.fbPowerOn : (n : Nat) → Side → (addr : Nat) → Byte

/-- FREE VALUE: the sample a plane-memory cell holds that nothing has written since the `n`-th power-on (R79, R302).
DEDUCED, log entry 2. -/
opaque Config.plPowerOn : (n : Nat) → Side → Plane → (index : Nat) → Sample

end Sys2Proof
end

