-- ==== Sys2Proof/Machine/State.lean ====
section
/-! DEFINITION. The state of the block (10_state.md R20): the 64-word register space, the two frame buffers and the six
plane memories, each as plain data; the model's own fields (the parameter, the power-on counter, the host's port); the
state after hardware reset; the reasons a step can stop. -/

namespace Sys2Proof.Machine

/-- One thing per side. -/
structure Sides (α : Type) where
  a : α
  b : α
deriving DecidableEq, Repr

/-- One thing per plane. -/
structure Planes (α : Type) where
  y : α
  cb : α
  cr : α
deriving DecidableEq, Repr

/-- One thing per series: luma, Cb, Cr and the composite (R37). -/
structure Series (α : Type) where
  y : α
  cb : α
  cr : α
  c : α
deriving DecidableEq, Repr

/-- A memory of `w`-bit cells: the cells something has written since power-on, by address, addresses strictly rising. A
cell that is not listed holds no specified value (R79). -/
abbrev Memory (w : Nat) := List (Nat × BitVec w)

/-- `STATUS.PHASE` (R23). -/
inductive Phase where
  | idle
  | ready
  | done
  | faulted
deriving DecidableEq, Repr

/-- The range and length registers of one plane (R31, R32). -/
structure PlaneRange where
  start : Word
  stop : Word
  stride : BitVec 3
  len : Word
deriving DecidableEq, Repr

/-- The registers of the register space (R22), each at the width the map says is used. The six fields of `STATUS` (R23),
the two of `CAUSE` (R25) and the four bits of `NANS` (R38) are held one by one; the words are in Registers.lean. -/
structure Regs where
  /-- `STATUS.PHASE`. -/
  phase : Phase
  /-- `STATUS.PV_A`, `STATUS.PV_B`. -/
  pv : Sides Bool
  /-- `STATUS.SKIPPED`. -/
  skipped : Bool
  /-- `STATUS.WARN16`. -/
  warn16 : Bool
  /-- `CAUSE[7:0]`, the fault code. -/
  causeCode : BitVec 8
  /-- `CAUSE[8]`, the selector. -/
  causeSel : BitVec 1
  /-- `FINFO`. -/
  finfo : Word
  /-- `WIDTH`. -/
  width : BitVec 16
  /-- `HEIGHT`. -/
  height : BitVec 16
  /-- `FMT_IN`. -/
  fmtIn : Tag
  /-- `FMT_OUT`. -/
  fmtOut : Tag
  /-- `LEN_A`, `LEN_B`. -/
  lenBytes : Sides Word
  /-- `DESC`. -/
  desc : Word
  /-- `FRAME_SIZE`. -/
  frameSize : Word
  /-- `Y_START` to `CR_LEN`. -/
  layout : Planes PlaneRange
  /-- `ZREF_LEN`. -/
  zrefLen : Word
  /-- `SSE_Y`, `SSE_CB`, `SSE_CR`, each its `LO` and `HI` word. -/
  sse : Planes Sum48
  /-- `PSNR_Y`, `PSNR_CB`, `PSNR_CR`, `PSNR_C`. -/
  psnr : Series Word
  /-- `FRAME_IDX`. -/
  frameIdx : Word
  /-- `USED`. -/
  used : Word
  /-- `SUM_Y`, `SUM_CB`, `SUM_CR`, `SUM_C`, each its `LO` and `HI` word. -/
  sum : Series Sum48
  /-- `NANS.NY`, `NANS.NCB`, `NANS.NCR`, `NANS.NC`. -/
  nans : Series Bool
  /-- `MEAN_Y`, `MEAN_CB`, `MEAN_CR`, `MEAN_C`. -/
  mean : Series Word
deriving DecidableEq, Repr

/-- The reset value of the range registers (R301). -/
def PlaneRange.zero : PlaneRange := { start := 0#32, stop := 0#32, stride := 0#3, len := 0#32 }

/-- The reset value of every register (R301): each of the 64 words reads 0. -/
def Regs.zero : Regs :=
  { phase := .idle, pv := ⟨false, false⟩, skipped := false, warn16 := false
    causeCode := 0#8, causeSel := 0#1, finfo := 0#32
    width := 0#16, height := 0#16, fmtIn := 0#8, fmtOut := 0#8, lenBytes := ⟨0#32, 0#32⟩
    desc := 0#32, frameSize := 0#32
    layout := ⟨PlaneRange.zero, PlaneRange.zero, PlaneRange.zero⟩, zrefLen := 0#32
    sse := ⟨0#48, 0#48, 0#48⟩, psnr := ⟨0#32, 0#32, 0#32, 0#32⟩
    frameIdx := 0#32, used := 0#32
    sum := ⟨0#48, 0#48, 0#48, 0#48⟩, nans := ⟨false, false, false, false⟩
    mean := ⟨0#32, 0#32, 0#32, 0#32⟩ }

/-- The state. `regs`, `fb` and `pl` are the block's (R20); the other four are the model's own: a parameter of the block,
a counter that names the free contents of the memories, and the two ends of the host's port. -/
structure State where
  /-- The register space, R22. -/
  regs : Regs
  /-- `FB[A]`, `FB[B]`, R47. -/
  fb : Sides (Memory 8)
  /-- `PL[s][p]`, R48. -/
  pl : Sides (Planes (Memory 16))
  /-- MODEL'S OWN: the parameters (R6). No step writes it. DESIGN CHOICE, log entry 1. -/
  cfg : Config
  /-- MODEL'S OWN: how many hardware resets came after the first; it selects the free contents of unwritten cells.
  DEDUCED, log entry 10. -/
  powerOns : Nat
  /-- MODEL'S OWN: the events still to come at the port, the next one first (R80). DESIGN CHOICE, log entry 3. -/
  port : List Access
  /-- MODEL'S OWN: the cell the last host read returned. DESIGN CHOICE, log entry 4. -/
  answer : Option CellValue
deriving DecidableEq, Repr

/-- The machine right after hardware reset (R301, R302): every register 0, no memory cell with a specified value, no
access pending. The values of the model's own four fields: DESIGN CHOICE, log entry 15. -/
def State.reset : State :=
  { regs := Regs.zero
    fb := ⟨[], []⟩
    pl := ⟨⟨[], [], []⟩, ⟨[], [], []⟩⟩
    cfg := Config.default
    powerOns := 0
    port := []
    answer := none }

/-- Why the model stops. The spec's own fault causes (R261) are NOT here: they are next states in phase FAULTED. -/
inductive Fault where
  /-- Raised by a host access that names a frame-buffer address at or above `FB_BYTES`. The spec says that such an access
  "cannot be expressed in the model" (R75). SAFE: the hardware has no such cell. DESIGN CHOICE, log entry 8. -/
  | noFrameBufferCell (side : Side) (addr : Nat)
  /-- Raised by a host read that names a plane-memory index at or above `FB_BYTES` (R75). SAFE. DESIGN CHOICE, log
  entry 8. -/
  | noPlaneCell (side : Side) (plane : Plane) (index : Nat)
  /-- Raised by `EXT` (and `FRAME`) when the layout registers name a cell at or above `FB_BYTES`, which no layout that
  `INIT` computes does (R170, corner cases). SAFE: no run reaches it. DEDUCED, log entry 9. -/
  | layoutOutsideFrameBuffer
  /-- Raised by `SCORE` (and `FRAME`) when a length register exceeds `FB_BYTES`, which no layout that `INIT` computes
  does (R7). SAFE: no run reaches it. DEDUCED, log entry 9. -/
  | lengthOutsidePlaneMemory
deriving DecidableEq, Repr

/-- Why the model has no meaning for an instruction. -/
inductive Refusal where
  /-- The instruction of this mnemonic has no meaning yet. SAFE. No arm of `exec` raises it. -/
  | notModelled (mnemonic : String)
deriving DecidableEq, Repr

/-- What a meaning answers. -/
abbrev Result := Host.Outcome State Fault Refusal

end Sys2Proof.Machine
end

