-- ==== Sys2Proof/Machine/Ops.lean ====
section
/-! DEFINITION. The named operations over memory and registers: reading and writing one cell, filling the first cells of
a memory, fault entry (60_exceptions.md R262) and the two exits from the fault state (R264). -/

namespace Sys2Proof.Machine

/-! ### Choosing by side and plane (R13) -/

/-- The thing of one side. -/
def Sides.get {α : Type} (x : Sides α) : Side → α
  | .a => x.a
  | .b => x.b

/-- One side's thing replaced. -/
def Sides.set {α : Type} (x : Sides α) (s : Side) (v : α) : Sides α :=
  match s with
  | .a => { x with a := v }
  | .b => { x with b := v }

/-- The thing of one plane. -/
def Planes.get {α : Type} (x : Planes α) : Plane → α
  | .y => x.y
  | .cb => x.cb
  | .cr => x.cr

/-- A value for each plane, computed from the plane. -/
def Planes.tabulate {α : Type} (f : Plane → α) : Planes α := ⟨f .y, f .cb, f .cr⟩

/-- Series by series. -/
def Series.zip {α β γ : Type} (f : α → β → γ) (x : Series α) (y : Series β) : Series γ :=
  ⟨f x.y y.y, f x.cb y.cb, f x.cr y.cr, f x.c y.c⟩

/-- The number of a side (R13): A is 0, B is 1. -/
def sideBit : Side → BitVec 1
  | .a => 0#1
  | .b => 1#1

/-- The number of a plane (R13): Y is 0, Cb is 1, Cr is 2. -/
def planeNumber : Plane → Word
  | .y => 0#32
  | .cb => 1#32
  | .cr => 2#32

/-! ### Memory -/

/-- The canonical form: addresses strictly rising. An unlisted cell reads as no value at all, so no entry can equal what
an unlisted cell reads as. -/
abbrev Memory.wf {w : Nat} (m : Memory w) : Prop := m.Pairwise fun x y => x.1 < y.1

/-- What the cell at `a` was last written with, or `none` when nothing has written it (R79). -/
def Memory.read? {w : Nat} : Memory w → Nat → Option (BitVec w)
  | [], _ => none
  | (b, v) :: m, a => if a = b then some v else Memory.read? m a

/-- Writing one cell. -/
def Memory.write {w : Nat} : Memory w → Nat → BitVec w → Memory w
  | [], a, v => [(a, v)]
  | (b, u) :: m, a, v =>
    if a < b then (a, v) :: (b, u) :: m
    else if a = b then (a, v) :: m
    else (b, u) :: Memory.write m a v

/-- Writing the cells `0 .. n - 1`, cell `k` with `f k`, in rising order. -/
def Memory.fill {w : Nat} (m : Memory w) (f : Nat → BitVec w) : Nat → Memory w
  | 0 => m
  | n + 1 => Memory.write (Memory.fill m f n) n (f n)

/-- `MemRead(FB[side], addr, 1)` (R12). A byte nothing has written is a free value (R79). -/
def State.readFb (s : State) (side : Side) (addr : Nat) : Byte :=
  match Memory.read? (s.fb.get side) addr with
  | some v => v
  | none => Config.fbPowerOn s.powerOns side addr

/-- `PL[side][p][k]` (R12). A sample nothing has written is a free value (R79). -/
def State.readPl (s : State) (side : Side) (p : Plane) (k : Nat) : Sample :=
  match Memory.read? ((s.pl.get side).get p) k with
  | some v => v
  | none => Config.plPowerOn s.powerOns side p k

/-- `MemWrite(FB[side], addr, 1, v)` (R12). -/
def State.writeFb (s : State) (side : Side) (addr : Nat) (v : Byte) : State :=
  { s with fb := s.fb.set side (Memory.write (s.fb.get side) addr v) }

/-- The state with other registers. -/
def State.withRegs (s : State) (r : Regs) : State := { s with regs := r }

/-! ### Faults of the block (R260 to R264) -/

/-- The nine fault causes (R261). -/
inductive FaultCode where
  | unsupportedFormat
  | endOfStream
  | noData
  | badResolution
  | frameTooLarge
  | illegalCommand
  | sequence
  | emptyPlane
  | frameCountOverflow
deriving DecidableEq, Repr

/-- `CODE` of a cause (R261). -/
def faultNumber : FaultCode → BitVec 8
  | .unsupportedFormat => 1#8
  | .endOfStream => 2#8
  | .noData => 3#8
  | .badResolution => 4#8
  | .frameTooLarge => 5#8
  | .illegalCommand => 6#8
  | .sequence => 7#8
  | .emptyPlane => 8#8
  | .frameCountOverflow => 9#8

/-- What fault entry does to the registers (R262): `CAUSE`, `FINFO` and `PHASE`, and nothing else. -/
def Regs.enterFault (r : Regs) (code : FaultCode) (sel : BitVec 1) (info : Word) : Regs :=
  { r with causeCode := faultNumber code, causeSel := sel, finfo := info, phase := .faulted }

/-- Fault entry (R262). Memories are untouched. -/
def State.enterFault (s : State) (code : FaultCode) (sel : BitVec 1) (info : Word) : State :=
  s.withRegs (s.regs.enterFault code sel info)

/-- `raise Fault(code, sel, info)` (R12): a next state, in phase FAULTED. -/
def raise (s : State) (code : FaultCode) (sel : BitVec 1) (info : Word) : Result :=
  .next (s.enterFault code sel info)

/-- The soft exit from the fault state (R264), and what `SRST` does in every phase (R231): every register 0, the memories
as they were. -/
def State.softReset (s : State) : State := s.withRegs Regs.zero

/-- Hardware reset (R300 to R302): every register 0, and no memory cell holds a specified value any more
(DEDUCED, log entry 10). -/
def State.hardwareReset (s : State) : State :=
  { s with
    regs := Regs.zero
    fb := ⟨[], []⟩
    pl := ⟨⟨[], [], []⟩, ⟨[], [], []⟩⟩
    powerOns := s.powerOns + 1 }

/-- Step 1 of R234: in phase FAULTED a command is ignored (R267). -/
def unlessFaulted (s : State) (k : Result) : Result :=
  if s.regs.phase = .faulted then .next s else k

/-- Steps 1 and 3 of R234 for `EXT`, `SCORE` and `FIN`: ignored in FAULTED, `SEQUENCE` with the command word in IDLE and
DONE, the command's own work in READY (R233). -/
def whenReady (s : State) (word : Word) (k : Result) : Result :=
  unlessFaulted s (if s.regs.phase = .ready then k else raise s .sequence 0#1 word)

/-- One command after another; a stop of the model stops the sequence. -/
def andThen (o : Result) (f : State → Result) : Result :=
  match o with
  | .next s => f s
  | .fault e => .fault e
  | .refused e => .refused e

end Sys2Proof.Machine
end

