-- ==== Sys2Proof/Machine/Operands.lean ====
section
/-! DEFINITION. The operand forms: the descriptor ROM and the fields of its words (30_encoding.md R108 to R111), the
boundaries of the two partitions and the evaluation of a range (40_descriptor_rom.md R132 to R137), the address sequence
of a range (41_plane_extractor.md R171). -/

namespace Sys2Proof.Machine

/-- Division of naturals rounded up (R11). -/
def ceilDiv (a b : Nat) : Nat := (a + b - 1) / b

/-- The descriptor ROM, eight constant words (R49, R111). -/
def rom (i : BitVec 3) : Word :=
  match i.toNat with
  | 0 => 0x80213210#32
  | 1 => 0x80322110#32
  | 2 => 0x80757110#32
  | 3 => 0x81B8B074#32
  | 4 => 0x81B4BC70#32
  | 5 => 0x81BCB470#32
  | 6 => 0x81322110#32
  | _ => 0x00000000#32

/-- The ROM index of a tag, `tag[2:0]` (R107, R135). -/
def romIndex (t : Tag) : BitVec 3 := t.extractLsb' 0 3

/-- `VALID`, bit 31 of a descriptor word (R108). -/
def descValid (d : Word) : Bool := d.getLsbD 31

/-- `CLS`, bit 24 of a descriptor word (R108): false is the 4:2:0 partition, true the 4:2:2 partition. -/
def descClass (d : Word) : Bool := d.getLsbD 24

/-- `YD`, `CBD` and `CRD`: the plane descriptors in bits 7:0, 15:8 and 23:16 of a descriptor word (R108). -/
def descPlane (d : Word) : Plane → BitVec 8
  | .y => d.extractLsb' 0 8
  | .cb => d.extractLsb' 8 8
  | .cr => d.extractLsb' 16 8

/-- `sb`, bits 1:0 of a plane descriptor (R109). -/
def startBoundary (pd : BitVec 8) : BitVec 2 := pd.extractLsb' 0 2

/-- `so`, bits 3:2 of a plane descriptor (R109). -/
def startOffset (pd : BitVec 8) : BitVec 2 := pd.extractLsb' 2 2

/-- `eb`, bits 5:4 of a plane descriptor (R109). -/
def stopBoundary (pd : BitVec 8) : BitVec 2 := pd.extractLsb' 4 2

/-- `st`, bits 7:6 of a plane descriptor (R109). -/
def strideCode (pd : BitVec 8) : BitVec 2 := pd.extractLsb' 6 2

/-- `boundaries(CLS, wh)[i]` (R132): the product at full precision, then the floor. -/
def boundary (cls : Bool) (wh : Nat) (i : BitVec 2) : Nat :=
  match cls, i.toNat with
  | _, 0 => 0
  | _, 1 => wh
  | false, 2 => wh * 5 / 4
  | false, _ => wh * 3 / 2
  | true, 2 => wh * 3 / 2
  | true, _ => wh * 2

/-- The frame size (R136): `b[3]`. -/
def frameBytes (cls : Bool) (wh : Nat) : Nat := boundary cls wh 3#2

/-- A range as the layout arithmetic computes it, before it is written to registers (R134, R137). -/
structure RangeN where
  start : Nat
  stop : Nat
  stride : Nat
  len : Nat
deriving DecidableEq, Repr

/-- The number of addresses of a range (R137). -/
def rangeLen (start stop stride : Nat) : Nat := if start < stop then ceilDiv (stop - start) stride else 0

/-- Evaluating a plane descriptor over a partition (R110, R134, R137). -/
def evalRange (cls : Bool) (wh : Nat) (pd : BitVec 8) : RangeN :=
  let start := boundary cls wh (startBoundary pd) + (startOffset pd).toNat
  let stop := boundary cls wh (stopBoundary pd)
  let stride := 2 ^ (strideCode pd).toNat
  { start := start, stop := stop, stride := stride, len := rangeLen start stop stride }

/-- The range of one plane of a descriptor word. -/
def descRange (d : Word) (wh : Nat) (p : Plane) : RangeN := evalRange (descClass d) wh (descPlane d p)

/-- A range written to its four registers (R31, R32). -/
def RangeN.toRegs (r : RangeN) : PlaneRange :=
  { start := BitVec.ofNat 32 r.start
    stop := BitVec.ofNat 32 r.stop
    stride := BitVec.ofNat 3 r.stride
    len := BitVec.ofNat 32 r.len }

/-- The address of sample `k` of a range, `START + k*STRIDE` (R171). -/
def PlaneRange.address (r : PlaneRange) (k : Nat) : Nat := r.start.toNat + k * r.stride.toNat

/-- The cells a range names exist: its samples fit a plane memory of `cap` cells, and its last (and so greatest) address
lies in a frame buffer of `cap` bytes (R70). -/
def PlaneRange.fits (r : PlaneRange) (cap : Nat) : Bool :=
  decide (r.len.toNat ≤ cap) && (decide (r.len.toNat = 0) || decide (r.address (r.len.toNat - 1) < cap))

end Sys2Proof.Machine
end

