-- ==== Sys2Proof/Machine/Flags.lean ====
section
/-! DEFINITION. The flags (10_state.md R46): `WARN16`, the skip decision behind `SKIPPED`, the `NAN` bit of a PSNR word
and the sticky `NANS` bits. `PV_A` and `PV_B` are written where EXT and SCORE write them. -/

namespace Sys2Proof.Machine

/-- `WARN16` (R138): the width or the height is not a multiple of 16. -/
def needsWarn16 (w h : Nat) : Bool := decide (w % 16 ≠ 0) || decide (h % 16 ≠ 0)

/-- `NAN`, the perfect-match sentinel word (R45). -/
def nanWord : Word := 0x80000000#32

/-- Is a PSNR word the sentinel? -/
def isNan (v : Word) : Bool := v == nanWord

/-- `Q`, bits 15:0 of a PSNR word (R45). -/
def qField (v : Word) : BitVec 16 := v.extractLsb' 0 16

/-- A `NANS` bit after a used frame (R200): sticky. -/
def nanAfter (bit : Bool) (v : Word) : Bool := bit || isNan v

/-- The skip rule (R193): every luma sample of side B in `[0, ZREF_LEN)` is zero. -/
def State.skips (s : State) : Bool :=
  (List.range s.regs.zrefLen.toNat).all fun k => s.readPl .b .y k == 0#16

end Sys2Proof.Machine
end

