-- ==== Sys2Proof/Machine/Registers.lean ====
section
/-! DEFINITION. The register space as the host sees it (10_state.md R22): `reg[i]` for each of the 64 indices, and what a
host write to an index other than 0 does. -/

namespace Sys2Proof.Machine

/-- The code of a phase (R23). -/
def phaseCode : Phase → BitVec 2
  | .idle => 0#2
  | .ready => 1#2
  | .done => 2#2
  | .faulted => 3#2

/-- `STATUS` (R23): bits 31:6 read 0. -/
def Regs.statusWord (r : Regs) : Word :=
  (0#26 ++ BitVec.ofBool r.warn16 ++ BitVec.ofBool r.skipped ++ BitVec.ofBool r.pv.b ++ BitVec.ofBool r.pv.a
    ++ phaseCode r.phase : BitVec 32)

/-- `CAUSE` (R25): bits 31:9 read 0. -/
def Regs.causeWord (r : Regs) : Word := (0#23 ++ r.causeSel ++ r.causeCode : BitVec 32)

/-- `NANS` (R38): bits 31:4 read 0. -/
def Regs.nansWord (r : Regs) : Word :=
  (0#28 ++ BitVec.ofBool r.nans.c ++ BitVec.ofBool r.nans.cr ++ BitVec.ofBool r.nans.cb ++ BitVec.ofBool r.nans.y
    : BitVec 32)

/-- The `LO` word of a 48-bit quantity, bits 31:0 (R73). -/
def loWord (x : Sum48) : Word := x.extractLsb' 0 32

/-- The `HI` word of a 48-bit quantity, bits 47:32 zero-extended (R73). -/
def hiWord (x : Sum48) : Word := (x.extractLsb' 32 16).setWidth 32

/-- `reg[i]` as the host sees it (R22): `CMD` and the reserved indices read 0. -/
def Regs.read (r : Regs) (i : Fin 64) : Word :=
  match i.val with
  | 1 => r.statusWord
  | 2 => r.causeWord
  | 3 => r.finfo
  | 4 => r.width.setWidth 32
  | 5 => r.height.setWidth 32
  | 6 => r.fmtIn.setWidth 32
  | 7 => r.fmtOut.setWidth 32
  | 8 => r.lenBytes.a
  | 9 => r.lenBytes.b
  | 16 => r.desc
  | 17 => r.frameSize
  | 18 => r.layout.y.start
  | 19 => r.layout.y.stop
  | 20 => r.layout.y.stride.setWidth 32
  | 21 => r.layout.y.len
  | 22 => r.layout.cb.start
  | 23 => r.layout.cb.stop
  | 24 => r.layout.cb.stride.setWidth 32
  | 25 => r.layout.cb.len
  | 26 => r.layout.cr.start
  | 27 => r.layout.cr.stop
  | 28 => r.layout.cr.stride.setWidth 32
  | 29 => r.layout.cr.len
  | 30 => r.zrefLen
  | 32 => loWord r.sse.y
  | 33 => hiWord r.sse.y
  | 34 => loWord r.sse.cb
  | 35 => hiWord r.sse.cb
  | 36 => loWord r.sse.cr
  | 37 => hiWord r.sse.cr
  | 38 => r.psnr.y
  | 39 => r.psnr.cb
  | 40 => r.psnr.cr
  | 41 => r.psnr.c
  | 42 => r.frameIdx
  | 43 => r.used
  | 44 => loWord r.sum.y
  | 45 => hiWord r.sum.y
  | 46 => loWord r.sum.cb
  | 47 => hiWord r.sum.cb
  | 48 => loWord r.sum.cr
  | 49 => hiWord r.sum.cr
  | 50 => loWord r.sum.c
  | 51 => hiWord r.sum.c
  | 52 => r.nansWord
  | 53 => r.mean.y
  | 54 => r.mean.cb
  | 55 => r.mean.cr
  | 56 => r.mean.c
  | _ => 0#32

/-- A host write of `v` to `reg[i]`, `i` not `CMD` (R26, R27, R28, R40): the six read-write registers keep the bits they
hold, every other index ignores the write. -/
def Regs.write (r : Regs) (i : Fin 64) (v : Word) : Regs :=
  match i.val with
  | 4 => { r with width := v.extractLsb' 0 16 }
  | 5 => { r with height := v.extractLsb' 0 16 }
  | 6 => { r with fmtIn := v.extractLsb' 0 8 }
  | 7 => { r with fmtOut := v.extractLsb' 0 8 }
  | 8 => { r with lenBytes := r.lenBytes.set .a v }
  | 9 => { r with lenBytes := r.lenBytes.set .b v }
  | _ => r

end Sys2Proof.Machine
end

