-- ==== Sys2Proof/Machine/Extract.lean ====
section
/-! DEFINITION. `EXT` (41_plane_extractor.md R170 to R175). -/

namespace Sys2Proof.Machine

/-- Sample `k` of a range read from a frame buffer (R171, R172): the byte at `START + k*STRIDE`, zero-extended. -/
def State.sampleAt (s : State) (side : Side) (r : PlaneRange) (k : Nat) : Sample :=
  (s.readFb side (r.address k)).setWidth 16

/-- One plane memory after extraction: cells `0 .. p_LEN - 1` hold the samples, the others are not written (R170;
DEDUCED, log entry 13). -/
def State.extractedPlane (s : State) (side : Side) (p : Plane) : Memory 16 :=
  Memory.fill ((s.pl.get side).get p) (s.sampleAt side (s.regs.layout.get p)) (s.regs.layout.get p).len.toNat

/-- The registers after `EXT side`: `PV_side` is set (R175). -/
def Regs.markExtracted (r : Regs) (side : Side) : Regs := { r with pv := r.pv.set side true }

/-- The state after `EXT side` (R170). -/
def State.extract (s : State) (side : Side) : State :=
  { s with
    pl := s.pl.set side (Planes.tabulate (s.extractedPlane side))
    regs := s.regs.markExtracted side }

/-- Every cell the three ranges name exists (log entry 9). -/
def State.layoutFits (s : State) : Bool :=
  s.regs.layout.y.fits s.cfg.fbBytes && s.regs.layout.cb.fits s.cfg.fbBytes && s.regs.layout.cr.fits s.cfg.fbBytes

/-- `EXT side` (R170, R174). -/
def execExt (side : Side) (s : State) : Result :=
  whenReady s (extWord side) <|
    if (s.regs.lenBytes.get side).toNat < s.regs.frameSize.toNat then
      raise s .endOfStream (sideBit side) s.regs.frameIdx
    else if s.layoutFits then .next (s.extract side)
    else .fault .layoutOutsideFrameBuffer

end Sys2Proof.Machine
end

