-- ==== Sys2Proof/Machine/Metric.lean ====
section
/-! DEFINITION. The metric: squared errors, PSNR, composite, `SCORE` and `FIN` (42_metric_accumulator.md R190 to R204). -/

namespace Sys2Proof.Machine

/-- The sum of `f k` over `k` in `[0, n)`. -/
def sumBelow (f : Nat → Nat) : Nat → Nat
  | 0 => 0
  | n + 1 => sumBelow f n + f n

/-- The squared difference of two signed samples (R194). -/
def squaredError (a b : Sample) : Nat := (a.toInt - b.toInt).natAbs ^ 2

/-- `SSE_p` as an exact integer (R195). -/
def State.sseOf (s : State) (p : Plane) : Nat :=
  sumBelow (fun k => squaredError (s.readPl .a p k) (s.readPl .b p k)) (s.regs.layout.get p).len.toNat

/-- `psnr_q(SSE, n)` (R197): the greatest `q` with `10^q * SSE^2560 <= (65025 * n)^2560`. Outside the domain
of R197 its value means nothing and no run uses it (DESIGN CHOICE, log entry 19). -/
def psnrQ (sse n : Nat) : Nat := Nat.log 10 ((65025 * n) ^ 2560 / sse ^ 2560)

/-- The PSNR word of one plane (R198). -/
def psnrWord (sse n : Nat) : Word := if sse = 0 then nanWord else BitVec.ofNat 32 (psnrQ sse n)

/-- `composite_q` (R199): the sentinel absorbs; otherwise `(6*Y + Cb + Cr) // 8`. -/
def compositeQ (vy vcb vcr : Word) : Word :=
  if isNan vy || isNan vcb || isNan vcr then nanWord
  else BitVec.ofNat 32 ((6 * (qField vy).toNat + (qField vcb).toNat + (qField vcr).toNat) / 8)

/-- The PSNR word of plane `p` of the extracted frame pair. -/
def State.planeWord (s : State) (p : Plane) : Word := psnrWord (s.sseOf p) (s.regs.layout.get p).len.toNat

/-- The four PSNR words of the extracted frame pair (R190). -/
def State.framePsnr (s : State) : Series Word :=
  { y := s.planeWord .y
    cb := s.planeWord .cb
    cr := s.planeWord .cr
    c := compositeQ (s.planeWord .y) (s.planeWord .cb) (s.planeWord .cr) }

/-- A running sum after a used frame (R200): a number is added, the sentinel adds nothing. -/
def sumAfter (sum : Sum48) (v : Word) : Sum48 := if isNan v then sum else sum + (qField v).setWidth 48

/-- The registers after a `SCORE` that skips (R193). -/
def Regs.skipFrame (r : Regs) : Regs :=
  { r with frameIdx := r.frameIdx + 1#32, pv := ⟨false, false⟩, skipped := true }

/-- The registers after a `SCORE` that does not skip (R190, R200). -/
def Regs.useFrame (r : Regs) (sse : Planes Nat) (v : Series Word) : Regs :=
  { r with
    frameIdx := r.frameIdx + 1#32
    pv := ⟨false, false⟩
    skipped := false
    sse := ⟨BitVec.ofNat 48 sse.y, BitVec.ofNat 48 sse.cb, BitVec.ofNat 48 sse.cr⟩
    psnr := v
    nans := Series.zip nanAfter r.nans v
    sum := Series.zip sumAfter r.sum v
    used := r.used + 1#32 }

/-- The state after a `SCORE` that commits. -/
def State.scored (s : State) : State :=
  if s.skips then s.withRegs s.regs.skipFrame
  else s.withRegs (s.regs.useFrame (Planes.tabulate s.sseOf) s.framePsnr)

/-- Every plane cell `SCORE` reads exists (log entry 9). -/
def State.lengthsFit (s : State) : Bool :=
  decide (s.regs.layout.y.len.toNat ≤ s.cfg.fbBytes) && decide (s.regs.layout.cb.len.toNat ≤ s.cfg.fbBytes)
    && decide (s.regs.layout.cr.len.toNat ≤ s.cfg.fbBytes) && decide (s.regs.zrefLen.toNat ≤ s.cfg.fbBytes)

/-- `SCORE` (R190 to R193). -/
def execScore (s : State) : Result :=
  whenReady s scoreWord <|
    if s.regs.pv.a = false ∨ s.regs.pv.b = false then raise s .sequence 0#1 scoreWord
    else if s.regs.frameIdx = 0xFFFFFFFF#32 then raise s .frameCountOverflow 0#1 0xFFFFFFFF#32
    else if s.lengthsFit then .next s.scored
    else .fault .lengthOutsidePlaneMemory

/-- One mean (R203): the sentinel when the series has one, else the floor of the quotient. -/
def meanWord (sum : Sum48) (used : Word) (nan : Bool) : Word :=
  if nan then nanWord else BitVec.ofNat 32 (sum.toNat / used.toNat)

/-- The registers after a successful `FIN` (R202). -/
def Regs.finish (r : Regs) : Regs :=
  { r with
    mean := Series.zip (fun sum nan => meanWord sum r.used nan) r.sum r.nans
    phase := .done }

/-- `FIN` (R202, R204). -/
def execFin (s : State) : Result :=
  whenReady s finWord <|
    if s.regs.used = 0#32 then raise s .noData 0#1 s.regs.frameIdx
    else .next (s.withRegs s.regs.finish)

end Sys2Proof.Machine
end

