-- ==== Sys2Proof/Machine/Control.lean ====
section
/-! DEFINITION. `NOP`, `SRST`, the illegal words and the pseudo-command `FRAME` (43_control_commands.md R230 to R232,
30_encoding.md R105). -/

namespace Sys2Proof.Machine

/-- `NOP` (R230): no state changes, in any phase. -/
def execNop (s : State) : Result := .next s

/-- `SRST` (R231): every register 0, in every phase. -/
def execSrst (s : State) : Result := .next s.softReset

/-- An illegal command word (R105): `ILLEGAL_COMMAND` with the word, ignored in FAULTED. -/
def execIllegal (word : Word) (s : State) : Result := unlessFaulted s (raise s .illegalCommand 0#1 word)

/-- `FRAME` (R113, R232): `EXT A`, `EXT B`, `SCORE`. That it is one step: DESIGN CHOICE, log entry 6, safe. -/
def execFrame (s : State) : Result := andThen (andThen (execExt .a s) (execExt .b)) execScore

end Sys2Proof.Machine
end

