-- ==== Sys2Proof/Machine/Init.lean ====
section
/-! DEFINITION. `INIT` and the eight `TAG8` rows (40_descriptor_rom.md R130 to R149). A tag acts when `INIT` reads it
(R100, R131): the meaning of a format's row is what `INIT` does with that tag as the input format (DEDUCED,
log entry 5: safe for runs). -/

namespace Sys2Proof.Machine

/-- Step 5 of `INIT` (R130, R139): what a successful `INIT` writes, from the descriptor `d` and the product `wh`. -/
def Regs.openSession (r : Regs) (d : Word) (wh : Nat) : Regs :=
  { r with
    desc := d
    frameSize := BitVec.ofNat 32 (frameBytes (descClass d) wh)
    zrefLen := BitVec.ofNat 32 wh
    layout := Planes.tabulate fun p => (descRange d wh p).toRegs
    sse := ⟨0#48, 0#48, 0#48⟩
    psnr := ⟨0#32, 0#32, 0#32, 0#32⟩
    sum := ⟨0#48, 0#48, 0#48, 0#48⟩
    mean := ⟨0#32, 0#32, 0#32, 0#32⟩
    nans := ⟨false, false, false, false⟩
    frameIdx := 0#32
    used := 0#32
    pv := ⟨false, false⟩
    skipped := false
    warn16 := needsWarn16 r.width.toNat r.height.toNat
    phase := .ready }

/-- The first plane of length 0, in the order Y, Cb, Cr (R133). -/
def firstEmptyPlane (d : Word) (wh : Nat) : Option Plane :=
  if (descRange d wh .y).len = 0 then some .y
  else if (descRange d wh .cb).len = 0 then some .cb
  else if (descRange d wh .cr).len = 0 then some .cr
  else none

/-- `wh`, the exact product of the dimensions (R12). -/
def Regs.area (r : Regs) : Nat := r.width.toNat * r.height.toNat

/-- `INIT` with `tag` as the input format (R130), its checks in the order of R263. -/
def initWith (tag : Tag) (s : State) : Result :=
  unlessFaulted s <|
    if 6 < tag.toNat then raise s .unsupportedFormat 0#1 (tag.setWidth 32)
    else if 6 < s.regs.fmtOut.toNat then raise s .unsupportedFormat 1#1 (s.regs.fmtOut.setWidth 32)
    else if s.regs.width = 0#16 ∨ s.regs.height = 0#16 then
      raise s .badResolution 0#1 (s.regs.height ++ s.regs.width : BitVec 32)
    else
      let d := rom (romIndex tag)
      let size := frameBytes (descClass d) s.regs.area
      if s.cfg.fbBytes < size then raise s .frameTooLarge 0#1 (BitVec.ofNat 32 (min size 0xFFFFFFFF))
      else
        match firstEmptyPlane d s.regs.area with
        | some p => raise s .emptyPlane 0#1 (planeNumber p)
        | none => .next (s.withRegs (s.regs.openSession d s.regs.area))

/-- `INIT` (R130): the tag is the one in `FMT_IN`. -/
def execInit (s : State) : Result := initWith s.regs.fmtIn s

/-- `YV12`, tag 0 (R140). -/
def execYv12 (s : State) : Result := initWith 0#8 s

/-- `IYUV`, tag 1 (R141). -/
def execIyuv (s : State) : Result := initWith 1#8 s

/-- `NV12`, tag 2 (R142). -/
def execNv12 (s : State) : Result := initWith 2#8 s

/-- `UYVY`, tag 3 (R143). -/
def execUyvy (s : State) : Result := initWith 3#8 s

/-- `YVYU`, tag 4 (R144). -/
def execYvyu (s : State) : Result := initWith 4#8 s

/-- `YUY2`, tag 5 (R145). -/
def execYuy2 (s : State) : Result := initWith 5#8 s

/-- `Y422`, tag 6 (R146). -/
def execY422 (s : State) : Result := initWith 6#8 s

/-- `SEL` of `UNSUPPORTED_FORMAT` (R261): 0 is the input tag, 1 the output tag. -/
def tagRegisterBit : TagRegister → BitVec 1
  | .input => 0#1
  | .output => 1#1

/-- An unsupported tag (R107, R131): `UNSUPPORTED_FORMAT` naming the register and the tag. -/
def execUnsupportedTag (reg : TagRegister) (tag : Tag) (s : State) : Result :=
  unlessFaulted s (raise s .unsupportedFormat (tagRegisterBit reg) (tag.setWidth 32))

end Sys2Proof.Machine
end

