-- ==== Sys2Proof/Machine/Dispatch.lean ====
section
/-! DEFINITION. One arm per row of the opcode table. -/

namespace Sys2Proof.Machine

def exec (i : Instr) (s : State) : Host.Outcome State Fault Refusal :=
  match i with
  | .nop => Sys2Proof.Machine.execNop s
  | .init => Sys2Proof.Machine.execInit s
  | .ext side => Sys2Proof.Machine.execExt side s
  | .score => Sys2Proof.Machine.execScore s
  | .fin => Sys2Proof.Machine.execFin s
  | .srst => Sys2Proof.Machine.execSrst s
  | .frame => Sys2Proof.Machine.execFrame s
  | .illegal word => Sys2Proof.Machine.execIllegal word s
  | .yv12 => Sys2Proof.Machine.execYv12 s
  | .iyuv => Sys2Proof.Machine.execIyuv s
  | .nv12 => Sys2Proof.Machine.execNv12 s
  | .uyvy => Sys2Proof.Machine.execUyvy s
  | .yvyu => Sys2Proof.Machine.execYvyu s
  | .yuy2 => Sys2Proof.Machine.execYuy2 s
  | .y422 => Sys2Proof.Machine.execY422 s
  | .unsupportedTag reg tag => Sys2Proof.Machine.execUnsupportedTag reg tag s

end Sys2Proof.Machine
end

