-- ==== Sys2Proof/Machine/Port.lean ====
section
/-! DEFINITION. The host's port (20_memory.md R70, R75, R80): what one event at it does. -/

namespace Sys2Proof.Machine

/-- A host write of a register (R22): index 0 is `CMD`, whose write executes the decoded command (R24). -/
def hostWriteReg (i : Fin 64) (v : Word) (s : State) : Result :=
  if i = 0 then exec (decodeCmd v) s else .next (s.withRegs (s.regs.write i v))

/-- A host read returns a cell and changes nothing else (R40, R75). -/
def State.answering (s : State) (v : CellValue) : State := { s with answer := some v }

/-- One event at the port, in the state in which it has been taken from the stream. -/
def perform (x : Access) (s : State) : Result :=
  match x with
  | .writeReg i v => hostWriteReg i v s
  | .readReg i => .next (s.answering (.reg (s.regs.read i)))
  | .writeFb side addr v =>
    if addr < s.cfg.fbBytes then .next (s.writeFb side addr v) else .fault (.noFrameBufferCell side addr)
  | .readFb side addr =>
    if addr < s.cfg.fbBytes then .next (s.answering (.byte (s.readFb side addr)))
    else .fault (.noFrameBufferCell side addr)
  | .readPl side p k =>
    if k < s.cfg.fbBytes then .next (s.answering (.sample (s.readPl side p k))) else .fault (.noPlaneCell side p k)
  | .frame => exec .frame s
  | .hardwareReset => .next s.hardwareReset

/-- The next event is taken from the stream and performed; with none pending the block does nothing (R301). -/
def takeEvent (s : State) : Result :=
  match s.port with
  | [] => .next s
  | x :: rest => perform x { s with port := rest }

/-- The events that make the block run an encoded object: the write of a command word; for a tag, the tag in its register
and the write of `INIT`, which is what reads it (R131); for the expansion of `FRAME`, the line `FRAME`. -/
def State.present (s : State) : Code → State
  | .cmd32 c => { s with port := .writeReg 0 c :: s.port }
  | .tag8 .input t => { s with regs := { s.regs with fmtIn := t }, port := .writeReg 0 initWord :: s.port }
  | .tag8 .output t => { s with regs := { s.regs with fmtOut := t }, port := .writeReg 0 initWord :: s.port }
  | .expansion ws =>
    if ws = Sys2Proof.frameWords then { s with port := .frame :: s.port }
    else { s with port := ws.map (fun c => .writeReg 0 c) ++ s.port }

end Sys2Proof.Machine
end

