-- ==== Sys2Proof/Machine/Step.lean ====
section
/-! DEFINITION. One step is one event at the port (20_memory.md R80). -/

namespace Sys2Proof.Machine

/-- One step: the next event of the host's stream takes effect completely. -/
def step (s : State) : Host.Outcome State Fault Refusal := takeEvent s

/-- `s` with the instruction of these table bits as the next thing the block runs. -/
def State.withFetchWord (s : State) (nbits w : Nat) : State :=
  match codeOfTableWord nbits w with
  | some code => s.present code
  | none => s

end Sys2Proof.Machine
end

