-- ==== Sys2Proof/Machine/Program.lean ====
section
/-! DEFINITION. The host's side (30_encoding.md R112, 44_session_sequence.md R240 to R247): the accesses a line of the
host notation stands for; a host program, which chooses its next access by what it has read; the canonical program; the
computations that are the host's duty. Files and streams are outside the block (00_scope.md R5): a host program is no part
of `State`, and no step reads one (DESIGN CHOICE, log entry 18). -/

namespace Sys2Proof.Machine

/-- A command line: the write of its word to `CMD` (R112). -/
def command (word : Word) : Access := .writeReg 0 word

/-- The writes of `bytes` to one frame buffer at rising addresses from `addr`. -/
def loadFrom (side : Side) (addr : Nat) : List Byte → List Access
  | [] => []
  | b :: bs => .writeFb side addr b :: loadFrom side (addr + 1) bs

/-- `LOAD side, bytes` (R72, R112, R244): byte `k` to address `k`. -/
def load (side : Side) (bytes : List Byte) : List Access := loadFrom side 0 bytes

/-- The index of `LEN_A` or `LEN_B` (R22). -/
def lenIndex : Side → Fin 64
  | .a => 8
  | .b => 9

/-- One side of step 4 of R241: the bytes, then how many there were (R244, R245). -/
def loadFrame (side : Side) (bytes : List Byte) : List Access :=
  load side bytes ++ [.writeReg (lenIndex side) (BitVec.ofNat 32 bytes.length)]

/-- Step 4 of R241 for one frame pair. -/
def framePair (a b : List Byte) : List Access := loadFrame .a a ++ loadFrame .b b ++ [.frame]

/-- The configuration writes of R241 and R303. -/
def configure (w h : Nat) (fmtIn fmtOut : Tag) : List Access :=
  [.writeReg 4 (BitVec.ofNat 32 w), .writeReg 5 (BitVec.ofNat 32 h),
   .writeReg 6 (fmtIn.setWidth 32), .writeReg 7 (fmtOut.setWidth 32)]

/-! ### A host that reads and decides -/

/-- A file as the host has it. -/
structure HostFile where
  /-- The size from which the frames are counted (R243). -/
  size : Nat
  /-- The bytes the host obtains; fewer than `size` when the file shrinks during the run (R245). -/
  bytes : List Byte
deriving DecidableEq, Repr

/-- A file that does not change while it is read. -/
def wholeFile (bytes : List Byte) : HostFile := { size := bytes.length, bytes := bytes }

/-- What the canonical program reports at its end (R241): the four means, or `CAUSE` and `FINFO`. -/
inductive Report where
  | result (mean : Series Word)
  | failure (cause finfo : Word)
deriving DecidableEq, Repr

/-- A host program: it stops with a report, or makes one access and goes on by the cell that a read returned. -/
inductive HostProgram where
  | stop (report : Report)
  | access (x : Access) (next : Option CellValue → HostProgram)

/-- A host program run against the block, one step for each access. It puts each access in front of whatever waits at the
port, so `port` is at the end what it was. -/
def runHost : HostProgram → State → Host.Outcome (State × Report) Fault Refusal
  | .stop report, s => .next (s, report)
  | .access x next, s =>
    match step { s with port := x :: s.port } with
    | .next t => runHost (next t.answer) t
    | .fault e => .fault e
    | .refused e => .refused e

/-- Accesses whose answers the host does not use. -/
def issue : List Access → HostProgram → HostProgram
  | [], k => k
  | x :: xs, k => .access x fun _ => issue xs k

/-- The word a register read returned. -/
def answeredWord : Option CellValue → Word
  | some (.reg v) => v
  | _ => 0#32

/-- `RD`: one register read, whose word decides what follows. -/
def readRegister (i : Fin 64) (k : Word → HostProgram) : HostProgram := .access (.readReg i) fun v => k (answeredWord v)

/-- `PHASE` in a word read from `STATUS` (R23). -/
def phaseField (status : Word) : BitVec 2 := status.extractLsb' 0 2

/-! ### The canonical program -/

/-- Stop and report `CAUSE` and `FINFO` (R241). -/
def reportFault : HostProgram := readRegister 2 fun cause => readRegister 3 fun finfo => .stop (.failure cause finfo)

/-- `RD STATUS`; in phase FAULTED stop and report, else go on (R241). -/
def unlessFaultSeen (k : HostProgram) : HostProgram :=
  readRegister 1 fun status => if phaseField status = 3#2 then reportFault else k

/-- Report the four means (R241, R246). -/
def reportMeans : HostProgram :=
  readRegister 53 fun y => readRegister 54 fun cb => readRegister 55 fun cr => readRegister 56 fun c =>
    .stop (.result ⟨y, cb, cr, c⟩)

/-- Step 5 of R241: `FIN`; the means in phase DONE, else the fault. -/
def finishSession : HostProgram :=
  issue [command finWord] (readRegister 1 fun status => if phaseField status = 2#2 then reportMeans else reportFault)

/-- Step 4 of R241, for the frame pairs that are left, and then step 5: the host stops at the first fault it sees. -/
def scoreFrames : List (List Byte × List Byte) → HostProgram
  | [] => finishSession
  | (a, b) :: rest => issue (framePair a b) (unlessFaultSeen (scoreFrames rest))

/-- The tag of a format name (R242); any other name is an unsupported code, the recommended `0xFF`. -/
def tagOfName (name : String) : Tag :=
  if name = "YV12" then 0#8
  else if name = "IYUV" then 1#8
  else if name = "NV12" then 2#8
  else if name = "UYVY" then 3#8
  else if name = "YVYU" then 4#8
  else if name = "YUY2" then 5#8
  else if name = "Y422" ∨ name = "422" then 6#8
  else 0xFF#8

/-- The full frames of a file (R243). -/
def framesAvailable (fileSize frameSize : Nat) : Nat := fileSize / frameSize

/-- The frame count `N` of a run (R243): the smaller of the two files' frames, and of the cap when there is one. -/
def frameCount (sizeA sizeB frameSize : Nat) (cap : Option Nat) : Nat :=
  match cap with
  | none => min (framesAvailable sizeA frameSize) (framesAvailable sizeB frameSize)
  | some n => min (min (framesAvailable sizeA frameSize) (framesAvailable sizeB frameSize)) n

/-- Frame `i` of a file (R244): its bytes `i*fs` to `(i+1)*fs - 1`, fewer where the file ends first (R245). -/
def frameOf (file : List Byte) (fs i : Nat) : List Byte := (file.drop (i * fs)).take fs

/-- The frame pairs of step 4 of R240 and R241, `N` of them by R243. -/
def framePairs (a b : HostFile) (fs : Nat) (cap : Option Nat) : List (List Byte × List Byte) :=
  (List.range (frameCount a.size b.size fs cap)).map fun i => (frameOf a.bytes fs i, frameOf b.bytes fs i)

/-- The canonical host program (R241). It counts the frames, and opens the files (R242), only after an `INIT` that
succeeded, from the `FRAME_SIZE` it reads. That it sees the fault of `INIT` by reading `STATUS`: DESIGN CHOICE, log entry 18. -/
def session (w h : Nat) (fmtIn fmtOut : Tag) (a b : HostFile) (cap : Option Nat) : HostProgram :=
  issue ([command srstWord] ++ configure w h fmtIn fmtOut ++ [command initWord]) <|
    unlessFaultSeen <| readRegister 17 fun fs => scoreFrames (framePairs a b fs.toNat cap)

/-- `run` of R240 as R241 has it, on files that do not change, against the block in `s`. -/
def runFiles (w h : Nat) (fmtIn fmtOut : Tag) (fileA fileB : List Byte) (cap : Option Nat) (s : State) :
    Host.Outcome (State × Report) Fault Refusal :=
  runHost (session w h fmtIn fmtOut (wholeFile fileA) (wholeFile fileB) cap) s

/-- What a host may report as the result of a run (R10, R246): the four means, in phase DONE alone. -/
def State.result (s : State) : Option (Series Word) := if s.regs.phase = .done then some s.regs.mean else none

/-- The host's own warning (R247): the file is no exact multiple of the frame size. -/
def sizeWarning (fileSize frameSize : Nat) : Bool := decide (fileSize % frameSize ≠ 0)

end Sys2Proof.Machine
end

