-- ==== Sys2Proof/Safety.lean ====
section
/-! DEFINITION. The terms the statements use: the end of a run (00_scope.md R10), what it means that a step leaves
something alone, the invariants of the machine, and the re-packing that 41_plane_extractor.md R176 asks a model for. -/

namespace Sys2Proof.Machine

/-! ### The end of a run -/

/-- A run has ended (R10). -/
def State.ended (s : State) : Bool := s.regs.phase == .done || s.regs.phase == .faulted

/-- A run has ended with a result (R10). -/
def State.endedWithResult (s : State) : Bool := s.regs.phase == .done

/-- `n` steps, stopping where the model stops. -/
def steps : Nat → State → Result
  | 0, s => .next s
  | n + 1, s => andThen (step s) (steps n)

/-- The class of a descriptor word, and the fields `sb so eb st` of its three plane descriptors in the order Y, Cb, Cr
(R108, R109). -/
def descFields (w : Word) : Bool × List (Nat × Nat × Nat × Nat) :=
  (descClass w, [Plane.y, Plane.cb, Plane.cr].map fun p =>
    ((startBoundary (descPlane w p)).toNat, (startOffset (descPlane w p)).toNat,
      (stopBoundary (descPlane w p)).toNat, (strideCode (descPlane w p)).toNat))

/-! ### What is left alone -/

/-- The registers no command writes (R26, R27, R28) are the same in `s` and `t`. -/
def sameHostRegs (s t : State) : Prop :=
  t.regs.width = s.regs.width ∧ t.regs.height = s.regs.height ∧ t.regs.fmtIn = s.regs.fmtIn
    ∧ t.regs.fmtOut = s.regs.fmtOut ∧ t.regs.lenBytes = s.regs.lenBytes

/-- The layout registers (R29 to R33) are the same in `s` and `t`. -/
def sameLayout (s t : State) : Prop :=
  t.regs.desc = s.regs.desc ∧ t.regs.frameSize = s.regs.frameSize ∧ t.regs.layout = s.regs.layout
    ∧ t.regs.zrefLen = s.regs.zrefLen

/-- The fault record (R25) is the same in `s` and `t`. -/
def sameFaultRecord (s t : State) : Prop :=
  t.regs.causeCode = s.regs.causeCode ∧ t.regs.causeSel = s.regs.causeSel ∧ t.regs.finfo = s.regs.finfo

/-- The per-frame registers, the accumulators, the counters and the means (R34 to R39) are the same in `s` and `t`. -/
def sameMetric (s t : State) : Prop :=
  t.regs.sse = s.regs.sse ∧ t.regs.psnr = s.regs.psnr ∧ t.regs.frameIdx = s.regs.frameIdx
    ∧ t.regs.used = s.regs.used ∧ t.regs.sum = s.regs.sum ∧ t.regs.nans = s.regs.nans ∧ t.regs.mean = s.regs.mean

/-- Every frame-buffer byte reads in `t` as in `s`. -/
def sameFrameBuffers (s t : State) : Prop := ∀ side a, t.readFb side a = s.readFb side a

/-- Every sample of the planes of one side reads in `t` as in `s`. -/
def samePlanesOf (side : Side) (s t : State) : Prop := ∀ p k, t.readPl side p k = s.readPl side p k

/-- Every memory cell reads in `t` as in `s`. -/
def sameMemories (s t : State) : Prop := sameFrameBuffers s t ∧ ∀ side, samePlanesOf side s t

/-- The model's own fields are the same in `s` and `t`. -/
def samePort (s t : State) : Prop :=
  t.cfg = s.cfg ∧ t.powerOns = s.powerOns ∧ t.port = s.port ∧ t.answer = s.answer

/-! ### Invariants -/

/-- Every cell of a memory lies below `cap`. -/
def Memory.below {w : Nat} (m : Memory w) (cap : Nat) : Prop := ∀ e ∈ m, e.1 < cap

/-- Every written sample is in `0..255` (R48, R172). -/
def Memory.bytesOnly (m : Memory 16) : Prop := ∀ e ∈ m, e.2.toNat ≤ 255

/-- The memories are in canonical form, inside their spaces (R70), and hold byte-valued samples (R48). -/
def State.memoriesOk (s : State) : Prop :=
  (∀ side, Memory.wf (s.fb.get side) ∧ Memory.below (s.fb.get side) s.cfg.fbBytes)
    ∧ ∀ side p, Memory.wf ((s.pl.get side).get p) ∧ Memory.below ((s.pl.get side).get p) s.cfg.fbBytes
        ∧ Memory.bytesOnly ((s.pl.get side).get p)

/-- A range as every layout in force has it (R31, R32), in a frame of `size` bytes. -/
def PlaneRange.good (r : PlaneRange) (size : Nat) : Prop :=
  r.start.toNat < r.stop.toNat ∧ r.stop.toNat ≤ size
    ∧ (r.stride = 1#3 ∨ r.stride = 2#3 ∨ r.stride = 4#3)
    ∧ r.len.toNat = ceilDiv (r.stop.toNat - r.start.toNat) r.stride.toNat

/-- A layout is in force: some `INIT` since the last reset succeeded. -/
def State.hasLayout (s : State) : Prop := 0 < s.regs.frameSize.toNat

/-- The session invariant (R7, R30 to R34, R48): a layout in force fits the buffers, an open or finished session has one,
a side marked extracted has every sample of it, and no sum of squared errors exceeds its bound. -/
structure State.SessionOk (s : State) : Prop where
  config : s.cfg.wf
  size : s.hasLayout → s.regs.frameSize.toNat ≤ s.cfg.fbBytes
  ranges : s.hasLayout → ∀ p, (s.regs.layout.get p).good s.regs.frameSize.toNat
  zref : s.hasLayout → s.regs.zrefLen = s.regs.layout.y.len
  session : s.regs.phase = .ready ∨ s.regs.phase = .done → s.hasLayout
  extracted : ∀ side, s.regs.pv.get side = true → s.hasLayout ∧
    ∀ p k, k < (s.regs.layout.get p).len.toNat →
      ∃ v, Memory.read? ((s.pl.get side).get p) k = some v ∧ v.toNat ≤ 255
  errors : ∀ p, (s.regs.sse.get p).toNat ≤ 65025 * (s.regs.layout.get p).len.toNat

/-- A legal PSNR word (R45): the sentinel, or a number up to 36981. -/
def psnrLegal (v : Word) : Prop := v = nanWord ∨ v.toNat ≤ 36981

/-- All four words of a series are legal. -/
def seriesLegal (v : Series Word) : Prop := psnrLegal v.y ∧ psnrLegal v.cb ∧ psnrLegal v.cr ∧ psnrLegal v.c

/-- A running sum does not exceed what `used` frames can add (R7, R200). -/
def sumsBounded (sum : Series Sum48) (used : Word) : Prop :=
  sum.y.toNat ≤ 36981 * used.toNat ∧ sum.cb.toNat ≤ 36981 * used.toNat
    ∧ sum.cr.toNat ≤ 36981 * used.toNat ∧ sum.c.toNat ≤ 36981 * used.toNat

/-- The accumulator invariant (R36, R37, R38, R45). -/
structure State.CountersOk (s : State) : Prop where
  counts : s.regs.used.toNat ≤ s.regs.frameIdx.toNat
  sums : sumsBounded s.regs.sum s.regs.used
  composite : s.regs.nans.c = (s.regs.nans.y || s.regs.nans.cb || s.regs.nans.cr)
  psnr : seriesLegal s.regs.psnr
  mean : seriesLegal s.regs.mean

/-- The registers with the host's own ones cleared. -/
def Regs.withoutHostRegs (r : Regs) : Regs :=
  { r with width := 0#16, height := 0#16, fmtIn := 0#8, fmtOut := 0#8, lenBytes := ⟨0#32, 0#32⟩ }

/-- The phase invariant (R25, R39, R263, R301): a fault is recorded exactly in FAULTED; IDLE is the reset state up to the
host's registers; an open session has no means yet. -/
structure State.PhaseOk (s : State) : Prop where
  recorded : s.regs.phase = .faulted ↔ s.regs.causeCode ≠ 0#8
  codes : s.regs.causeCode.toNat ≤ 9
  selector : s.regs.causeSel = 1#1 → s.regs.causeCode = faultNumber .unsupportedFormat ∨
    s.regs.causeCode = faultNumber .endOfStream
  clean : s.regs.phase ≠ .faulted → s.regs.causeSel = 0#1 ∧ s.regs.finfo = 0#32
  idle : s.regs.phase = .idle → s.regs.withoutHostRegs = Regs.zero
  means : s.regs.phase = .ready → s.regs.mean = ⟨0#32, 0#32, 0#32, 0#32⟩

/-! ### Results written out -/

/-- The state after fault entry (R262), with the cause as a number. -/
def State.faultedWith (s : State) (code : BitVec 8) (sel : BitVec 1) (info : Word) : State :=
  { s with regs := { s.regs with causeCode := code, causeSel := sel, finfo := info, phase := .faulted } }

/-- What `INIT` needs of a state besides the input tag and the size (R130): a phase that listens, a supported output tag,
no zero dimension, a legal configuration. -/
structure State.InitReady (s : State) : Prop where
  phase : s.regs.phase ≠ .faulted
  fmtOut : s.regs.fmtOut.toNat ≤ 6
  width : 1 ≤ s.regs.width.toNat
  height : 1 ≤ s.regs.height.toNat
  config : s.cfg.wf

/-- The state after a successful `INIT` (R130, R139) whose layout is written out in numbers: the descriptor word, the
frame size and the three ranges. Memories and the host's registers are as they were. -/
def State.sessionOpened (s : State) (word : Word) (size : Nat) (y cb cr : RangeN) : State :=
  { s with
    regs :=
      { phase := .ready, pv := ⟨false, false⟩, skipped := false
        warn16 := decide (s.regs.width.toNat % 16 ≠ 0 ∨ s.regs.height.toNat % 16 ≠ 0)
        causeCode := s.regs.causeCode, causeSel := s.regs.causeSel, finfo := s.regs.finfo
        width := s.regs.width, height := s.regs.height, fmtIn := s.regs.fmtIn, fmtOut := s.regs.fmtOut
        lenBytes := s.regs.lenBytes
        desc := word, frameSize := BitVec.ofNat 32 size
        layout := ⟨y.toRegs, cb.toRegs, cr.toRegs⟩
        zrefLen := BitVec.ofNat 32 (s.regs.width.toNat * s.regs.height.toNat)
        sse := ⟨0#48, 0#48, 0#48⟩, psnr := ⟨0#32, 0#32, 0#32, 0#32⟩
        frameIdx := 0#32, used := 0#32
        sum := ⟨0#48, 0#48, 0#48, 0#48⟩, nans := ⟨false, false, false, false⟩
        mean := ⟨0#32, 0#32, 0#32, 0#32⟩ } }

/-- The smallest area with no empty plane (R133): 4 for class 0, 2 for class 1. -/
def minArea (cls : Bool) : Nat := if cls then 2 else 4

/-- The table of R233: the phases an instruction may leave, from each phase. A tag row stands for `INIT` with that tag. -/
def nextPhases : Instr → Phase → List Phase
  | .nop, p => [p]
  | .srst, _ => [.idle]
  | _, .faulted => [.faulted]
  | .illegal _, _ => [.faulted]
  | .unsupportedTag _ _, _ => [.faulted]
  | .ext _, .ready => [.ready, .faulted]
  | .score, .ready => [.ready, .faulted]
  | .frame, .ready => [.ready, .faulted]
  | .fin, .ready => [.done, .faulted]
  | .ext _, _ => [.faulted]
  | .score, _ => [.faulted]
  | .frame, _ => [.faulted]
  | .fin, _ => [.faulted]
  | .init, _ => [.ready, .faulted]
  | .yv12, _ => [.ready, .faulted]
  | .iyuv, _ => [.ready, .faulted]
  | .nv12, _ => [.ready, .faulted]
  | .uyvy, _ => [.ready, .faulted]
  | .yvyu, _ => [.ready, .faulted]
  | .yuy2, _ => [.ready, .faulted]
  | .y422, _ => [.ready, .faulted]

/-- The rows that open a session when they succeed: `INIT` and the seven formats. -/
def opensSession : Instr → Bool
  | .init => true
  | .yv12 => true
  | .iyuv => true
  | .nv12 => true
  | .uyvy => true
  | .yvyu => true
  | .yuy2 => true
  | .y422 => true
  | .nop => false
  | .ext _ => false
  | .score => false
  | .fin => false
  | .srst => false
  | .frame => false
  | .illegal _ => false
  | .unsupportedTag _ _ => false

/-- The rows that extract a side: `EXT` of that side, and `FRAME`. -/
def extracts : Instr → Side → Bool
  | .ext t, side => t == side
  | .frame, _ => true
  | .nop, _ => false
  | .init, _ => false
  | .score, _ => false
  | .fin, _ => false
  | .srst, _ => false
  | .illegal _, _ => false
  | .yv12, _ => false
  | .iyuv, _ => false
  | .nv12, _ => false
  | .uyvy, _ => false
  | .yvyu, _ => false
  | .yuy2, _ => false
  | .y422, _ => false
  | .unsupportedTag _ _, _ => false

/-! ### Layouts and re-packing -/

/-- The layout registers hold the layout of a supported tag at some resolution, as `INIT` computes it. -/
def State.layoutOf (s : State) (tag : Tag) (wh : Nat) : Prop :=
  tag.toNat ≤ 6 ∧ 1 ≤ wh ∧ frameBytes (descClass (rom (romIndex tag))) wh ≤ s.cfg.fbBytes
    ∧ s.regs.frameSize = BitVec.ofNat 32 (frameBytes (descClass (rom (romIndex tag))) wh)
    ∧ s.regs.layout = Planes.tabulate fun p => (descRange (rom (romIndex tag)) wh p).toRegs

/-- The samples of one plane written back to their addresses, as bytes (R176). -/
def repackPlane (r : PlaneRange) (f : Nat → Byte) (m : Memory 8) : Nat → Memory 8
  | 0 => m
  | n + 1 => Memory.write (repackPlane r f m n) (r.address n) (f n)

/-- The three planes of one side written back into an empty buffer (R176). -/
def State.repack (s : State) (side : Side) : Memory 8 :=
  let back := fun (p : Plane) (m : Memory 8) =>
    repackPlane (s.regs.layout.get p) (fun k => (s.readPl side p k).setWidth 8) m (s.regs.layout.get p).len.toNat
  back .cr (back .cb (back .y []))

end Sys2Proof.Machine
end

