-- ==== Sys2Proof/Certificates/Slice0/Obligations.lean ====
section
/-! DEFINITION. The statements. Each docstring names the rule of spec/ it formalises. -/

open Sys2Proof Sys2Proof.Machine

/-! ### Encoding -/

/-- R103, R106, R107, R113: decoding the encoded object of a well-formed instruction gives the instruction back. -/
def Obligations.DecodeEncodeRoundTrip : Prop :=
  ∀ i : Instr, i.wf = true → decode (encode i) = .ok i

/-- R104, R106: what a command word or a tag decodes to is well formed, and encoding it gives the word or the tag back (a
supported tag as the tag of `FMT_IN`, since its row does not name a register). -/
def Obligations.DecodedObjectsReencode : Prop :=
  (∀ c : Word, (decodeCmd c).wf = true ∧ encode (decodeCmd c) = .cmd32 c) ∧
    ∀ (reg : TagRegister) (t : Tag), (decodeTag reg t).wf = true ∧
      encode (decodeTag reg t) = .tag8 (if t.toNat ≤ 6 then .input else reg) t

/-- R104: the decode of a command word, case by case in the rule's order, and its totality. -/
def Obligations.CommandDecodeFollowsTheOrder : Prop :=
  ∀ c : Word,
    (c >>> 9 ≠ 0#32 → decodeCmd c = .illegal c) ∧
    (c &&& 0xFF#32 ∉ [0x00#32, 0x01#32, 0x02#32, 0x03#32, 0x04#32, 0x0F#32] → decodeCmd c = .illegal c) ∧
    (c &&& 0xFF#32 ≠ 0x02#32 → c.getLsbD 8 = true → decodeCmd c = .illegal c) ∧
    (c >>> 9 = 0#32 → c.getLsbD 8 = false →
      (c &&& 0xFF#32 = 0x00#32 → decodeCmd c = .nop) ∧ (c &&& 0xFF#32 = 0x01#32 → decodeCmd c = .init) ∧
      (c &&& 0xFF#32 = 0x03#32 → decodeCmd c = .score) ∧ (c &&& 0xFF#32 = 0x04#32 → decodeCmd c = .fin) ∧
      (c &&& 0xFF#32 = 0x0F#32 → decodeCmd c = .srst)) ∧
    (c >>> 9 = 0#32 → c &&& 0xFF#32 = 0x02#32 → decodeCmd c = .ext (if c.getLsbD 8 then .b else .a)) ∧
    (decodeCmd c = .illegal c ↔ c ∉ legalWords)

/-- R106, R107: a tag is supported exactly when its upper bits are 0 and the ROM word it selects is valid, which is the
same as being at most 6; the seven supported tags are the seven formats in order. -/
def Obligations.SupportedTagsAreZeroToSix : Prop :=
  ∀ (reg : TagRegister) (t : Tag),
    ((t >>> 3 = 0#8 ∧ descValid (rom (romIndex t)) = true) ↔ t.toNat ≤ 6) ∧
    (6 < t.toNat → decodeTag reg t = .unsupportedTag reg t) ∧
    ([Instr.yv12, .iyuv, .nv12, .uyvy, .yvyu, .yuy2, .y422][t.toNat]? = some (decodeTag reg t) ∨ 6 < t.toNat)

/-- R103, R106: some words written out from the encoding decode to the instruction they stand for. -/
def Obligations.WrittenOutWordsDecode : Prop :=
  decodeCmd 0b00000000000000000000000_0_00000000#32 = .nop ∧
  decodeCmd 0b00000000000000000000000_0_00000001#32 = .init ∧
  decodeCmd 0b00000000000000000000000_0_00000010#32 = .ext .a ∧
  decodeCmd 0b00000000000000000000000_1_00000010#32 = .ext .b ∧
  decodeCmd 0b00000000000000000000000_0_00000011#32 = .score ∧
  decodeCmd 0b00000000000000000000000_0_00000100#32 = .fin ∧
  decodeCmd 0b00000000000000000000000_0_00001111#32 = .srst ∧
  decodeCmd 0b00000000000000000000000_1_00000011#32 = .illegal 0x103#32 ∧
  decodeTag .input 0b00000011#8 = .uyvy ∧ decodeTag .output 0b00000111#8 = .unsupportedTag .output 7#8

/-- R111: the eight ROM words, and the class and the twelve fields (`sb so eb st` of Y, Cb, Cr) of each. -/
def Obligations.DescriptorRomContents : Prop :=
  rom 0#3 = 0x80213210#32 ∧ descFields (rom 0#3) = (false, [(0, 0, 1, 0), (2, 0, 3, 0), (1, 0, 2, 0)]) ∧
  rom 1#3 = 0x80322110#32 ∧ descFields (rom 1#3) = (false, [(0, 0, 1, 0), (1, 0, 2, 0), (2, 0, 3, 0)]) ∧
  rom 2#3 = 0x80757110#32 ∧ descFields (rom 2#3) = (false, [(0, 0, 1, 0), (1, 0, 3, 1), (1, 1, 3, 1)]) ∧
  rom 3#3 = 0x81B8B074#32 ∧ descFields (rom 3#3) = (true, [(0, 1, 3, 1), (0, 0, 3, 2), (0, 2, 3, 2)]) ∧
  rom 4#3 = 0x81B4BC70#32 ∧ descFields (rom 4#3) = (true, [(0, 0, 3, 1), (0, 3, 3, 2), (0, 1, 3, 2)]) ∧
  rom 5#3 = 0x81BCB470#32 ∧ descFields (rom 5#3) = (true, [(0, 0, 3, 1), (0, 1, 3, 2), (0, 3, 3, 2)]) ∧
  rom 6#3 = 0x81322110#32 ∧ descFields (rom 6#3) = (true, [(0, 0, 1, 0), (1, 0, 2, 0), (2, 0, 3, 0)]) ∧
  rom 7#3 = 0x00000000#32 ∧ descFields (rom 7#3) = (false, [(0, 0, 0, 0), (0, 0, 0, 0), (0, 0, 0, 0)])

/-! ### The port -/

/-- R24, R104: a write of `CMD` executes the decoded command in one step, in the state from which the write has been
taken; the decoded command is well formed; `CMD` itself reads 0. -/
def Obligations.StepRunsTheDecodedCommand : Prop :=
  (∀ (s : State) (c : Word) (rest : List Access), s.port = .writeReg 0 c :: rest →
    step s = exec (decodeCmd c) { s with port := rest } ∧ (decodeCmd c).wf = true) ∧
  ∀ r : Regs, r.read 0 = 0#32

/-- R100, R130, R131: a write of the `INIT` word runs the row of the tag in `FMT_IN`. This reading of the tag rows as
instructions is the model's (log entry 5). -/
def Obligations.StepRunsTheTagInFmtIn : Prop :=
  ∀ (s : State) (rest : List Access), s.port = .writeReg 0 0x00000001#32 :: rest →
    step s = exec (decodeTag .input s.regs.fmtIn) { s with port := rest }

/-- R113, R232: the line `FRAME` in one step does what its three command words do in three steps. That it is one step is
the model's choice (log entry 6). -/
def Obligations.FrameLineEqualsItsThreeCommands : Prop :=
  ∀ (s : State) (rest : List Access),
    let words : List Access :=
      [.writeReg 0 0x00000002#32, .writeReg 0 0x00000102#32, .writeReg 0 0x00000003#32]
    step { s with port := .frame :: rest } = steps 3 { s with port := words ++ rest }

/-- R22, R26, R27, R28: a host write of one of the six read-write registers stores the bits that register holds, and
changes no other register and no memory cell. -/
def Obligations.HostWritesReadWriteRegisters : Prop :=
  ∀ (s : State) (i : Fin 64) (v : Word) (rest : List Access), s.port = .writeReg i v :: rest →
    (4 ≤ i.val ∧ i.val ≤ 9) →
    ∃ t, step s = .next t ∧
      t.regs.read i = (if i.val ≤ 5 then v &&& 0xFFFF#32 else if i.val ≤ 7 then v &&& 0xFF#32 else v) ∧
      (∀ j, j ≠ i → t.regs.read j = s.regs.read j) ∧ sameMemories s t ∧ samePort { s with port := rest } t

/-- R22, R40: the register map. What the host reads at each index that holds something: the bits of `STATUS` (R23), of
`CAUSE` (R25) and of `NANS` (R38), the `HI` and `LO` words of each 48-bit quantity (R34, R37, R73), every other register
zero-extended. Reserved registers read 0, a host write of a reserved or read-only register changes nothing, a host read
changes nothing but what the host has read, which the model keeps in a field of its own (log entry 4). -/
def Obligations.ReservedAndReadOnlyRegisters : Prop :=
  (∀ (r : Regs) (i : Fin 64), (10 ≤ i.val ∧ i.val ≤ 15) ∨ i.val = 31 ∨ 57 ≤ i.val → r.read i = 0#32) ∧
  (∀ (s : State) (i : Fin 64) (v : Word) (rest : List Access), s.port = .writeReg i v :: rest →
    i ≠ 0 → i.val < 4 ∨ 9 < i.val → step s = .next { s with port := rest }) ∧
  (∀ (s : State) (i : Fin 64) (rest : List Access), s.port = .readReg i :: rest →
    step s = .next { s with port := rest, answer := some (.reg (s.regs.read i)) }) ∧
  (∀ r : Regs,
    (r.read 1).extractLsb' 0 2 = (match r.phase with | .idle => 0#2 | .ready => 1#2 | .done => 2#2 | .faulted => 3#2) ∧
    (r.read 1).getLsbD 2 = r.pv.a ∧ (r.read 1).getLsbD 3 = r.pv.b ∧ (r.read 1).getLsbD 4 = r.skipped ∧
    (r.read 1).getLsbD 5 = r.warn16 ∧ (r.read 1) >>> 6 = 0#32 ∧
    (r.read 2).extractLsb' 0 8 = r.causeCode ∧ (r.read 2).extractLsb' 8 1 = r.causeSel ∧ (r.read 2) >>> 9 = 0#32 ∧
    (r.read 52).getLsbD 0 = r.nans.y ∧ (r.read 52).getLsbD 1 = r.nans.cb ∧ (r.read 52).getLsbD 2 = r.nans.cr ∧
    (r.read 52).getLsbD 3 = r.nans.c ∧ (r.read 52) >>> 4 = 0#32) ∧
  (∀ r : Regs,
    r.read 3 = r.finfo ∧ (r.read 4).toNat = r.width.toNat ∧ (r.read 5).toNat = r.height.toNat ∧
    (r.read 6).toNat = r.fmtIn.toNat ∧ (r.read 7).toNat = r.fmtOut.toNat ∧ r.read 8 = r.lenBytes.a ∧
    r.read 9 = r.lenBytes.b ∧ r.read 16 = r.desc ∧ r.read 17 = r.frameSize ∧
    r.read 18 = r.layout.y.start ∧ r.read 19 = r.layout.y.stop ∧ (r.read 20).toNat = r.layout.y.stride.toNat ∧
    r.read 21 = r.layout.y.len ∧
    r.read 22 = r.layout.cb.start ∧ r.read 23 = r.layout.cb.stop ∧ (r.read 24).toNat = r.layout.cb.stride.toNat ∧
    r.read 25 = r.layout.cb.len ∧
    r.read 26 = r.layout.cr.start ∧ r.read 27 = r.layout.cr.stop ∧ (r.read 28).toNat = r.layout.cr.stride.toNat ∧
    r.read 29 = r.layout.cr.len ∧
    r.read 30 = r.zrefLen ∧ r.read 38 = r.psnr.y ∧ r.read 39 = r.psnr.cb ∧ r.read 40 = r.psnr.cr ∧
    r.read 41 = r.psnr.c ∧ r.read 42 = r.frameIdx ∧ r.read 43 = r.used ∧
    r.read 53 = r.mean.y ∧ r.read 54 = r.mean.cb ∧ r.read 55 = r.mean.cr ∧ r.read 56 = r.mean.c) ∧
  ∀ r : Regs,
    let halves := fun lo hi : Fin 64 => (r.read hi).toNat * 2 ^ 32 + (r.read lo).toNat
    halves 32 33 = r.sse.y.toNat ∧ halves 34 35 = r.sse.cb.toNat ∧ halves 36 37 = r.sse.cr.toNat ∧
    halves 44 45 = r.sum.y.toNat ∧ halves 46 47 = r.sum.cb.toNat ∧ halves 48 49 = r.sum.cr.toNat ∧
    halves 50 51 = r.sum.c.toNat

/-- R70, R75: a host write of a frame-buffer byte that exists changes that byte and nothing else; a host read of a memory
cell that exists returns the cell and changes nothing else. -/
def Obligations.HostAccessesMemoryCells : Prop :=
  (∀ (s : State) (side : Side) (a : Nat) (v : Byte) (rest : List Access), s.port = .writeFb side a v :: rest →
    a < s.cfg.fbBytes → ∃ t, step s = .next t ∧ t.readFb side a = v ∧
      (∀ other c, ¬ (other = side ∧ c = a) → t.readFb other c = s.readFb other c) ∧
      (∀ x, samePlanesOf x s t) ∧ t.regs = s.regs ∧ samePort { s with port := rest } t) ∧
  (∀ (s : State) (side : Side) (a : Nat) (rest : List Access), s.port = .readFb side a :: rest →
    a < s.cfg.fbBytes →
    step s = .next { s with port := rest, answer := some (.byte (s.readFb side a)) }) ∧
  ∀ (s : State) (side : Side) (p : Plane) (k : Nat) (rest : List Access), s.port = .readPl side p k :: rest →
    k < s.cfg.fbBytes →
    step s = .next { s with port := rest, answer := some (.sample (s.readPl side p k)) }

/-- R72, R112: the accesses of `LOAD side, bytes` place byte `k` at address `k`, one access a step, and change no other
byte, no plane, no register. -/
def Obligations.LoadPlacesTheFrame : Prop :=
  ∀ (s : State) (side : Side) (bytes : List Byte) (rest : List Access), bytes.length ≤ s.cfg.fbBytes →
    s.port = load side bytes ++ rest →
    ∃ t, steps bytes.length s = .next t ∧ t.port = rest ∧
      (∀ k (h : k < bytes.length), t.readFb side k = bytes[k]) ∧
      (∀ k, bytes.length ≤ k → t.readFb side k = s.readFb side k) ∧
      (∀ other, other ≠ side → ∀ k, t.readFb other k = s.readFb other k) ∧
      (∀ x, samePlanesOf x s t) ∧ t.regs = s.regs

/-- R75: an access to a cell that does not exist stops the model by name, and never a cell that exists. That the model
stops there is its own choice (log entry 8). -/
def Obligations.MissingCellsStopTheModel : Prop :=
  ∀ (s : State) (side : Side) (p : Plane) (a : Nat) (v : Byte) (rest : List Access),
    (s.port = .writeFb side a v :: rest → (step s = .fault (.noFrameBufferCell side a) ↔ s.cfg.fbBytes ≤ a)) ∧
    (s.port = .readFb side a :: rest → (step s = .fault (.noFrameBufferCell side a) ↔ s.cfg.fbBytes ≤ a)) ∧
    (s.port = .readPl side p a :: rest → (step s = .fault (.noPlaneCell side p a) ↔ s.cfg.fbBytes ≤ a))

/-- R300, R301, R302: the reset state and the state after the hardware-reset event have every register 0 and no memory
cell that holds a specified value; an `INIT` without configuration then reports `BAD_RESOLUTION`; with no access pending the
block does nothing. -/
def Obligations.HardwareResetClearsTheBlock : Prop :=
  (∀ i : Fin 64, State.reset.regs.read i = 0#32) ∧
  (∀ side a, Memory.read? (State.reset.fb.get side) a = none) ∧
  (∀ side p k, Memory.read? ((State.reset.pl.get side).get p) k = none) ∧
  exec .init State.reset = .next (State.reset.faultedWith 4#8 0#1 0#32) ∧
  (∀ s : State, s.port = [] → step s = .next s) ∧
  ∀ (s : State) (rest : List Access), s.port = .hardwareReset :: rest → ∃ t, step s = .next t ∧
    (∀ i, t.regs.read i = 0#32) ∧ (∀ side a, Memory.read? (t.fb.get side) a = none) ∧
    (∀ side p k, Memory.read? ((t.pl.get side).get p) k = none) ∧ t.port = rest ∧ t.cfg = s.cfg

/-! ### Control commands and fault entry -/

/-- R230: the word 0 is `NOP`, and `NOP` changes nothing, in every phase. -/
def Obligations.NopChangesNothing : Prop :=
  decodeCmd 0x00000000#32 = .nop ∧ ∀ s : State, exec .nop s = .next s

/-- R231: the word `0x0F` is `SRST`; it clears every register in every phase, FAULTED among them, as hardware reset does,
and leaves every memory cell. -/
def Obligations.SrstClearsEveryRegister : Prop :=
  decodeCmd 0x0000000F#32 = .srst ∧
  ∀ s : State, ∃ t, exec .srst s = .next t ∧ t.regs = State.reset.regs ∧ t.regs = s.hardwareReset.regs ∧
    (∀ i, t.regs.read i = 0#32) ∧ t.regs.phase = .idle ∧ t.fb = s.fb ∧ t.pl = s.pl ∧ sameMemories s t ∧ samePort s t

/-- R105: an illegal word raises `ILLEGAL_COMMAND` with the word in every phase but FAULTED, and is ignored there. -/
def Obligations.IllegalWordsFault : Prop :=
  ∀ (c : Word) (s : State), c ∉ legalWords → decodeCmd c = .illegal c ∧
    (s.regs.phase ≠ .faulted → exec (.illegal c) s = .next (s.faultedWith 6#8 0#1 c)) ∧
    (s.regs.phase = .faulted → exec (.illegal c) s = .next s)

/-- R107, R131: an unsupported tag decodes to its row, and the row raises `UNSUPPORTED_FORMAT` naming the register and the
tag. That a tag row has a meaning of its own is the model's reading (log entry 5), with this exception: of an unsupported
output tag beside an unsupported input tag the block reports the input tag (R131, InitFaultsInOrder), while the row by
itself names the output tag. -/
def Obligations.UnsupportedTagsFault : Prop :=
  ∀ (reg : TagRegister) (t : Tag) (s : State), 6 < t.toNat → s.regs.phase ≠ .faulted →
    decodeTag reg t = .unsupportedTag reg t ∧
    exec (.unsupportedTag reg t) s =
      .next (s.faultedWith 1#8 (match reg with | .input => 0#1 | .output => 1#1) (t.setWidth 32))

/-- R262: fault entry writes `CAUSE`, `FINFO` and `PHASE`, and nothing else, as the host reads it; and a command that ends
in FAULTED has done that and nothing else (`FRAME` is three commands, so it is left out). -/
def Obligations.FaultEntryWritesTheRecordAlone : Prop :=
  (∀ (i : Instr) (s t : State), i ≠ .frame → s.regs.phase ≠ .faulted → exec i s = .next t → t.regs.phase = .faulted →
    ∃ code sel info, t = s.enterFault code sel info) ∧
  ∀ (s : State) (code : FaultCode) (sel : BitVec 1) (info : Word),
    let t := s.enterFault code sel info
    t.regs.read 2 = (sel.setWidth 32 <<< 8) ||| (faultNumber code).setWidth 32 ∧ t.regs.read 3 = info ∧
    t.regs.phase = .faulted ∧ t.regs.read 1 = s.regs.read 1 ||| 3#32 ∧
    (∀ j : Fin 64, 3 < j.val ∨ j.val = 0 → t.regs.read j = s.regs.read j) ∧
    sameMemories s t ∧ samePort s t

/-- R267: in FAULTED every instruction but `SRST` changes nothing, and so does the write of any word but `0x0F` to `CMD`;
the host's other writes and its reads work as usual. -/
def Obligations.FaultedIgnoresAllButSrst : Prop :=
  ∀ s : State, s.regs.phase = .faulted →
    (∀ i : Instr, i ≠ .srst → exec i s = .next s) ∧
    (∀ (c : Word) (rest : List Access), s.port = .writeReg 0 c :: rest → c ≠ 0x0000000F#32 →
      step s = .next { s with port := rest }) ∧
    (∀ (i : Fin 64) (v : Word) (rest : List Access), s.port = .writeReg i v :: rest → i ≠ 0 →
      step s = .next { s with port := rest, regs := s.regs.write i v }) ∧
    (∀ (side : Side) (a : Nat) (v : Byte) (rest : List Access), s.port = .writeFb side a v :: rest →
      a < s.cfg.fbBytes → ∃ t, step s = .next t ∧ t.readFb side a = v ∧ t.regs = s.regs) ∧
    ∀ (i : Fin 64) (rest : List Access), s.port = .readReg i :: rest →
      step s = .next { s with port := rest, answer := some (.reg (s.regs.read i)) }

/-- R233: the phase machine. -/
def Obligations.PhaseMachine : Prop :=
  ∀ (i : Instr) (s t : State), exec i s = .next t → t.regs.phase ∈ nextPhases i s.regs.phase

/-- R233, R261: `EXT`, `SCORE` and `FIN` out of sequence raise `SEQUENCE` with the command word; `FRAME` reports the word
of its first command. -/
def Obligations.CommandsOutOfSequenceFault : Prop :=
  ∀ s : State, s.regs.phase = .idle ∨ s.regs.phase = .done →
    exec (.ext .a) s = .next (s.faultedWith 7#8 0#1 0x00000002#32) ∧
    exec (.ext .b) s = .next (s.faultedWith 7#8 0#1 0x00000102#32) ∧
    exec .score s = .next (s.faultedWith 7#8 0#1 0x00000003#32) ∧
    exec .fin s = .next (s.faultedWith 7#8 0#1 0x00000004#32) ∧
    exec .frame s = .next (s.faultedWith 7#8 0#1 0x00000002#32)

/-- R26 to R33, R71, R83: what no instruction changes. No instruction changes a frame-buffer byte or the model's port;
the host's registers change by `SRST` alone; the layout registers by `SRST` and the rows that open a session alone; the
planes of a side by the rows that extract it alone. -/
def Obligations.WhatInstructionsLeaveAlone : Prop :=
  ∀ (i : Instr) (s t : State), exec i s = .next t →
    sameFrameBuffers s t ∧ samePort s t ∧ (i ≠ .srst → sameHostRegs s t) ∧
    (i ≠ .srst → opensSession i = false → sameLayout s t) ∧
    ∀ side, extracts i side = false → samePlanesOf side s t

/-! ### INIT and the seven formats -/

/-- R130, R132, R134, R136, R137, R139: `INIT` with a supported tag, a frame that fits and no empty plane opens a session
whose layout is the evaluated descriptor; every number it writes is below `2^32`, so no register drops a bit of it. -/
def Obligations.InitOpensASession : Prop :=
  ∀ s : State, s.InitReady → s.regs.fmtIn.toNat ≤ 6 →
    let wh := s.regs.width.toNat * s.regs.height.toNat
    let d := rom (s.regs.fmtIn.extractLsb' 0 3)
    let b := fun (i : BitVec 2) => boundary (descClass d) wh i
    let range := fun (p : Plane) =>
      let pd := descPlane d p
      let start := b (pd.extractLsb' 0 2) + (pd.extractLsb' 2 2).toNat
      let stop := b (pd.extractLsb' 4 2)
      let stride := 2 ^ (pd.extractLsb' 6 2).toNat
      RangeN.mk start stop stride ((stop - start + stride - 1) / stride)
    b 3#2 ≤ s.cfg.fbBytes → (descClass d = false → 4 ≤ wh) → (descClass d = true → 2 ≤ wh) →
    exec .init s = .next (s.sessionOpened d (b 3#2) (range .y) (range .cb) (range .cr)) ∧
      b 3#2 < 2 ^ 32 ∧ ∀ p, (range p).start < (range p).stop ∧ (range p).stop ≤ b 3#2 ∧ 1 ≤ (range p).len ∧
        (range p).len ≤ b 3#2

/-- R130, R131, R133, R263: the faults of `INIT`, the first that applies. -/
def Obligations.InitFaultsInOrder : Prop :=
  ∀ s : State, s.regs.phase ≠ .faulted →
    let w := s.regs.width.toNat
    let h := s.regs.height.toNat
    let d := rom (s.regs.fmtIn.extractLsb' 0 3)
    let size := if descClass d then w * h * 2 else w * h * 3 / 2
    let len := fun p => (descRange d (w * h) p).len
    (6 < s.regs.fmtIn.toNat → exec .init s = .next (s.faultedWith 1#8 0#1 (s.regs.fmtIn.setWidth 32))) ∧
    (s.regs.fmtIn.toNat ≤ 6 → 6 < s.regs.fmtOut.toNat →
      exec .init s = .next (s.faultedWith 1#8 1#1 (s.regs.fmtOut.setWidth 32))) ∧
    (s.regs.fmtIn.toNat ≤ 6 → s.regs.fmtOut.toNat ≤ 6 →
      (w = 0 ∨ h = 0 → exec .init s = .next (s.faultedWith 4#8 0#1 (BitVec.ofNat 32 (h * 65536 + w)))) ∧
      (1 ≤ w → 1 ≤ h →
        (s.cfg.fbBytes < size →
          exec .init s = .next (s.faultedWith 5#8 0#1 (BitVec.ofNat 32 (min size 0xFFFFFFFF)))) ∧
        (size ≤ s.cfg.fbBytes →
          (len .y = 0 → exec .init s = .next (s.faultedWith 8#8 0#1 0#32)) ∧
          (len .y ≠ 0 → len .cb = 0 → exec .init s = .next (s.faultedWith 8#8 0#1 1#32)) ∧
          (len .y ≠ 0 → len .cb ≠ 0 → len .cr = 0 → exec .init s = .next (s.faultedWith 8#8 0#1 2#32)))))

/-- R133 (c): a plane is empty exactly when the area is below 4 in class 0 and below 2 in class 1. -/
def Obligations.EmptyPlanesExactlyAtTinyAreas : Prop :=
  ∀ (t : Tag) (wh : Nat), t.toNat ≤ 6 → 1 ≤ wh →
    ((∃ p, (descRange (rom (romIndex t)) wh p).len = 0) ↔ wh < minArea (descClass (rom (romIndex t))))

/-- R140: `YV12`, by `INIT` with the tag in `FMT_IN`; and the row `YV12` does the same, which is the model's reading of a tag
row (log entry 5), here and in the six statements that follow. -/
def Obligations.Yv12Layout : Prop :=
  decodeTag .input 0#8 = .yv12 ∧
  ∀ s : State, s.InitReady →
    let wh := s.regs.width.toNat * s.regs.height.toNat
    4 ≤ wh → wh * 3 / 2 ≤ s.cfg.fbBytes →
    let opened := s.sessionOpened 0x80213210#32 (wh * 3 / 2) ⟨0, wh, 1, wh⟩
      ⟨wh * 5 / 4, wh * 3 / 2, 1, wh * 3 / 2 - wh * 5 / 4⟩ ⟨wh, wh * 5 / 4, 1, wh / 4⟩
    (s.regs.fmtIn = 0#8 → exec .init s = .next opened) ∧ exec .yv12 s = .next opened

/-- R141: `IYUV`. -/
def Obligations.IyuvLayout : Prop :=
  decodeTag .input 1#8 = .iyuv ∧
  ∀ s : State, s.InitReady →
    let wh := s.regs.width.toNat * s.regs.height.toNat
    4 ≤ wh → wh * 3 / 2 ≤ s.cfg.fbBytes →
    let opened := s.sessionOpened 0x80322110#32 (wh * 3 / 2) ⟨0, wh, 1, wh⟩
      ⟨wh, wh * 5 / 4, 1, wh / 4⟩ ⟨wh * 5 / 4, wh * 3 / 2, 1, wh * 3 / 2 - wh * 5 / 4⟩
    (s.regs.fmtIn = 1#8 → exec .init s = .next opened) ∧ exec .iyuv s = .next opened

/-- R142: `NV12`. -/
def Obligations.Nv12Layout : Prop :=
  decodeTag .input 2#8 = .nv12 ∧
  ∀ s : State, s.InitReady →
    let wh := s.regs.width.toNat * s.regs.height.toNat
    4 ≤ wh → wh * 3 / 2 ≤ s.cfg.fbBytes →
    let opened := s.sessionOpened 0x80757110#32 (wh * 3 / 2) ⟨0, wh, 1, wh⟩
      ⟨wh, wh * 3 / 2, 2, (wh / 2 + 1) / 2⟩ ⟨wh + 1, wh * 3 / 2, 2, wh / 4⟩
    (s.regs.fmtIn = 2#8 → exec .init s = .next opened) ∧ exec .nv12 s = .next opened

/-- R143: `UYVY`, luma from byte 1 (90_conflicts.md C2). -/
def Obligations.UyvyLayout : Prop :=
  decodeTag .input 3#8 = .uyvy ∧
  ∀ s : State, s.InitReady →
    let wh := s.regs.width.toNat * s.regs.height.toNat
    2 ≤ wh → wh * 2 ≤ s.cfg.fbBytes →
    let opened := s.sessionOpened 0x81B8B074#32 (wh * 2) ⟨1, wh * 2, 2, wh⟩
      ⟨0, wh * 2, 4, (wh + 1) / 2⟩ ⟨2, wh * 2, 4, wh / 2⟩
    (s.regs.fmtIn = 3#8 → exec .init s = .next opened) ∧ exec .uyvy s = .next opened

/-- R144: `YVYU`. -/
def Obligations.YvyuLayout : Prop :=
  decodeTag .input 4#8 = .yvyu ∧
  ∀ s : State, s.InitReady →
    let wh := s.regs.width.toNat * s.regs.height.toNat
    2 ≤ wh → wh * 2 ≤ s.cfg.fbBytes →
    let opened := s.sessionOpened 0x81B4BC70#32 (wh * 2) ⟨0, wh * 2, 2, wh⟩
      ⟨3, wh * 2, 4, wh / 2⟩ ⟨1, wh * 2, 4, (wh + 1) / 2⟩
    (s.regs.fmtIn = 4#8 → exec .init s = .next opened) ∧ exec .yvyu s = .next opened

/-- R145: `YUY2`. -/
def Obligations.Yuy2Layout : Prop :=
  decodeTag .input 5#8 = .yuy2 ∧
  ∀ s : State, s.InitReady →
    let wh := s.regs.width.toNat * s.regs.height.toNat
    2 ≤ wh → wh * 2 ≤ s.cfg.fbBytes →
    let opened := s.sessionOpened 0x81BCB470#32 (wh * 2) ⟨0, wh * 2, 2, wh⟩
      ⟨1, wh * 2, 4, (wh + 1) / 2⟩ ⟨3, wh * 2, 4, wh / 2⟩
    (s.regs.fmtIn = 5#8 → exec .init s = .next opened) ∧ exec .yuy2 s = .next opened

/-- R146: `Y422`. -/
def Obligations.Y422Layout : Prop :=
  decodeTag .input 6#8 = .y422 ∧
  ∀ s : State, s.InitReady →
    let wh := s.regs.width.toNat * s.regs.height.toNat
    2 ≤ wh → wh * 2 ≤ s.cfg.fbBytes →
    let opened := s.sessionOpened 0x81322110#32 (wh * 2) ⟨0, wh, 1, wh⟩
      ⟨wh, wh * 3 / 2, 1, wh / 2⟩ ⟨wh * 3 / 2, wh * 2, 1, (wh + 1) / 2⟩
    (s.regs.fmtIn = 6#8 → exec .init s = .next opened) ∧ exec .y422 s = .next opened

/-- R147: the three ranges partition the frame: every sample's address lies in the frame, every byte of the frame is the
address of exactly one sample, and the lengths add up. -/
def Obligations.LayoutPartitionsTheFrame : Prop :=
  ∀ (t : Tag) (wh : Nat), t.toNat ≤ 6 → 1 ≤ wh →
    let d := rom (romIndex t)
    let r := descRange d wh
    let size := frameBytes (descClass d) wh
    (∀ p k, k < (r p).len → (r p).start + k * (r p).stride < size) ∧
    (∀ a, a < size → ∃ p k, k < (r p).len ∧ (r p).start + k * (r p).stride = a ∧
      ∀ q j, j < (r q).len → (r q).start + j * (r q).stride = a → q = p ∧ j = k) ∧
    (r .y).len + (r .cb).len + (r .cr).len = size

/-- R148: the plane lengths against the source's formulas. -/
def Obligations.PlaneLengths : Prop :=
  ∀ (t : Tag) (wh : Nat), t.toNat ≤ 6 → 1 ≤ wh →
    let d := rom (romIndex t)
    let len := fun p => (descRange d wh p).len
    len .y = wh ∧
    (descClass d = false → wh % 4 = 0 → len .cb = wh / 4 ∧ len .cr = wh / 4) ∧
    (descClass d = true → wh % 2 = 0 → len .cb = wh / 2 ∧ len .cr = wh / 2) ∧
    ((descClass d = false ∧ 2 ≤ wh % 4 ∨ descClass d = true ∧ wh % 2 = 1) →
      len .cb = len .cr + 1 ∨ len .cr = len .cb + 1) ∧
    (descClass d = false → wh % 4 = 1 → len .cb = len .cr)

/-! ### EXT -/

/-- R170, R172, R173, R175: `EXT` copies, zero-extended, the bytes its ranges address into the planes of its side, sets
that side's valid bit, and changes nothing else. Two clauses are the model's: that the cells from `p_LEN` on keep their
values (log entry 13; R48 calls them unspecified), and that a byte the host never wrote is copied as the unknown value it
holds (log entry 2; U3 of 93_implementation_defined.md asks for the hypothesis that every byte was written). -/
def Obligations.ExtractCopiesThePlanes : Prop :=
  ∀ (side : Side) (s : State), s.regs.phase = .ready →
    s.regs.frameSize.toNat ≤ (s.regs.lenBytes.get side).toNat → s.layoutFits = true →
    ∃ t, exec (.ext side) s = .next t ∧
      (∀ p k, k < (s.regs.layout.get p).len.toNat → (t.readPl side p k).toInt =
        ((s.readFb side ((s.regs.layout.get p).start.toNat + k * (s.regs.layout.get p).stride.toNat)).toNat : Int)) ∧
      (∀ p k, (s.regs.layout.get p).len.toNat ≤ k → t.readPl side p k = s.readPl side p k) ∧
      (∀ other, other ≠ side → samePlanesOf other s t) ∧ sameFrameBuffers s t ∧ samePort s t ∧
      t.regs = { s.regs with pv := match side with
        | .a => ⟨true, s.regs.pv.b⟩
        | .b => ⟨s.regs.pv.a, true⟩ }

/-- R174: a short frame raises `END_OF_STREAM` naming the side and the frame, for any layout. -/
def Obligations.ShortFramesFault : Prop :=
  ∀ (side : Side) (s : State), s.regs.phase = .ready →
    (s.regs.lenBytes.get side).toNat < s.regs.frameSize.toNat →
    exec (.ext side) s =
      .next (s.faultedWith 2#8 (match side with | .a => 0#1 | .b => 1#1) s.regs.frameIdx)

/-- R176: extracting a frame and re-packing the planes by the same layout reproduces the frame, byte for byte. Of a frame
with bytes the host never wrote, which U3 of 93_implementation_defined.md rules out by a hypothesis, this is the model's
choice (log entry 2): the unknown values of those bytes are reproduced. -/
def Obligations.ExtractThenRepackIsTheFrame : Prop :=
  ∀ (side : Side) (s : State) (tag : Tag) (wh : Nat), s.cfg.wf → s.layoutOf tag wh → s.regs.phase = .ready →
    s.regs.frameSize.toNat ≤ (s.regs.lenBytes.get side).toNat →
    ∃ t, exec (.ext side) s = .next t ∧
      (∀ a, a < s.regs.frameSize.toNat → Memory.read? (t.repack side) a = some (s.readFb side a)) ∧
      ∀ a, s.regs.frameSize.toNat ≤ a → Memory.read? (t.repack side) a = none

/-! ### SCORE -/

/-- R193: a frame pair whose side-B luma is all zero is skipped: the frame counter advances, the valid bits clear,
`SKIPPED` is set, nothing else changes. -/
def Obligations.ScoreSkipsZeroLuma : Prop :=
  ∀ s : State, s.regs.phase = .ready → s.regs.pv = ⟨true, true⟩ → s.regs.frameIdx ≠ 0xFFFFFFFF#32 →
    s.lengthsFit = true → (∀ k, k < s.regs.zrefLen.toNat → s.readPl .b .y k = 0#16) →
    exec .score s = .next { s with regs := { s.regs with
      frameIdx := s.regs.frameIdx + 1#32, pv := ⟨false, false⟩, skipped := true } }

/-- R190, R198, R199, R200: a frame pair that is not skipped is scored and accumulated; nothing else changes. -/
def Obligations.ScoreAccumulates : Prop :=
  ∀ s : State, s.regs.phase = .ready → s.regs.pv = ⟨true, true⟩ → s.regs.frameIdx ≠ 0xFFFFFFFF#32 →
    s.lengthsFit = true → (∃ k, k < s.regs.zrefLen.toNat ∧ s.readPl .b .y k ≠ 0#16) →
    let word := fun p => if s.sseOf p = 0 then 0x80000000#32
      else BitVec.ofNat 32 (psnrQ (s.sseOf p) (s.regs.layout.get p).len.toNat)
    let comp := compositeQ (word .y) (word .cb) (word .cr)
    let add := fun (sum : Sum48) (v : Word) =>
      if v = 0x80000000#32 then sum else sum + (v.extractLsb' 0 16).setWidth 48
    exec .score s = .next { s with regs := { s.regs with
      frameIdx := s.regs.frameIdx + 1#32, used := s.regs.used + 1#32, pv := ⟨false, false⟩, skipped := false
      sse := ⟨BitVec.ofNat 48 (s.sseOf .y), BitVec.ofNat 48 (s.sseOf .cb), BitVec.ofNat 48 (s.sseOf .cr)⟩
      psnr := ⟨word .y, word .cb, word .cr, comp⟩
      nans := ⟨s.regs.nans.y || word .y == 0x80000000#32, s.regs.nans.cb || word .cb == 0x80000000#32,
        s.regs.nans.cr || word .cr == 0x80000000#32, s.regs.nans.c || comp == 0x80000000#32⟩
      sum := ⟨add s.regs.sum.y (word .y), add s.regs.sum.cb (word .cb), add s.regs.sum.cr (word .cr),
        add s.regs.sum.c comp⟩ } }

/-- R191, R192: `SCORE` without both sides extracted raises `SEQUENCE`; at the last frame index it raises
`FRAME_COUNT_OVERFLOW`. -/
def Obligations.ScoreFaults : Prop :=
  ∀ s : State, s.regs.phase = .ready →
    (s.regs.pv.a = false ∨ s.regs.pv.b = false →
      exec .score s = .next (s.faultedWith 7#8 0#1 0x00000003#32)) ∧
    (s.regs.pv.a = true → s.regs.pv.b = true → s.regs.frameIdx = 0xFFFFFFFF#32 →
      exec .score s = .next (s.faultedWith 9#8 0#1 0xFFFFFFFF#32))

/-- R195: the sum of squared errors is the sum of the squared signed differences; it is 0 exactly when the planes are
equal sample for sample; with samples in `0..255` it is at most `65025 * p_LEN`, below `2^48`. -/
def Obligations.SseIsTheSumOfSquaredDifferences : Prop :=
  ∀ (s : State) (p : Plane),
    let n := (s.regs.layout.get p).len.toNat
    (s.sseOf p : Int) =
      (∑ k ∈ Finset.range n, ((s.readPl .a p k).toInt - (s.readPl .b p k).toInt) ^ 2) ∧
    (s.sseOf p = 0 ↔ ∀ k, k < n → s.readPl .a p k = s.readPl .b p k) ∧
    ((∀ side k, k < n → (s.readPl side p k).toNat ≤ 255) → s.sseOf p ≤ 65025 * n ∧ s.sseOf p < 2 ^ 48)

/-- R197: `psnr_q(SSE, n)` is the unique integer of the defining inequality. -/
def Obligations.PsnrIsTheDefinedInteger : Prop :=
  ∀ sse n : Nat, 1 ≤ sse → 1 ≤ n → sse ≤ 65025 * n →
    10 ^ psnrQ sse n * sse ^ 2560 ≤ (65025 * n) ^ 2560 ∧
    (65025 * n) ^ 2560 < 10 ^ (psnrQ sse n + 1) * sse ^ 2560 ∧
    ∀ q, 10 ^ q * sse ^ 2560 ≤ (65025 * n) ^ 2560 → (65025 * n) ^ 2560 < 10 ^ (q + 1) * sse ^ 2560 →
      q = psnrQ sse n

/-- R197, R205 (d): the bounds of `psnr_q`, and its exact values at both ends and at MSE 1. -/
def Obligations.PsnrBounds : Prop :=
  (∀ sse n, 1 ≤ sse → n < 2 ^ 32 → psnrQ sse n ≤ 36981) ∧ psnrQ 1 (2 ^ 32 - 1) = 36981 ∧
    (∀ n, 1 ≤ n → psnrQ (65025 * n) n = 0) ∧ ∀ n, 1 ≤ n → psnrQ n n = 12321

/-- R197, R205 (b): `psnr_q` does not increase with the error nor decrease with the length; so it does not increase with
the amplitude of a uniform offset. -/
def Obligations.PsnrIsMonotone : Prop :=
  (∀ n e f, 1 ≤ e → e ≤ f → psnrQ f n ≤ psnrQ e n) ∧ (∀ e m n, 1 ≤ e → m ≤ n → psnrQ e m ≤ psnrQ e n) ∧
    ∀ n x y, 1 ≤ n → 1 ≤ x → x ≤ y → psnrQ (n * y ^ 2) n ≤ psnrQ (n * x ^ 2) n

/-- R199: the composite of legal PSNR words: the sentinel absorbs; otherwise it is the floor of the weighted mean, at most
36981. -/
def Obligations.CompositeIsTheWeightedMean : Prop :=
  ∀ vy vcb vcr : Word, psnrLegal vy → psnrLegal vcb → psnrLegal vcr →
    (vy = 0x80000000#32 ∨ vcb = 0x80000000#32 ∨ vcr = 0x80000000#32 → compositeQ vy vcb vcr = 0x80000000#32) ∧
    (vy ≠ 0x80000000#32 → vcb ≠ 0x80000000#32 → vcr ≠ 0x80000000#32 →
      (compositeQ vy vcb vcr).toNat = (6 * vy.toNat + vcb.toNat + vcr.toNat) / 8 ∧
        (compositeQ vy vcb vcr).toNat ≤ 36981)

/-- R205 (c): exchanging the samples of the two sides changes no sum of squared errors and no PSNR word. -/
def Obligations.SidesAreSymmetric : Prop :=
  ∀ s t : State, t.regs.layout = s.regs.layout →
    (∀ p k, k < (s.regs.layout.get p).len.toNat →
      t.readPl .a p k = s.readPl .b p k ∧ t.readPl .b p k = s.readPl .a p k) →
    (∀ p, t.sseOf p = s.sseOf p) ∧ t.framePsnr = s.framePsnr

/-- R205 (f): a side B that is side A plus 1 everywhere has mean squared error 1 and PSNR word 12321. -/
def Obligations.UniformOffsetOfOne : Prop :=
  ∀ (s : State) (p : Plane), 1 ≤ (s.regs.layout.get p).len.toNat →
    (∀ k, k < (s.regs.layout.get p).len.toNat → (s.readPl .a p k).toNat ≤ 254 ∧
      (s.readPl .b p k).toNat = (s.readPl .a p k).toNat + 1) →
    s.sseOf p = (s.regs.layout.get p).len.toNat ∧ s.planeWord p = 12321#32

/-- R198, R205 (a), (e): a frame pair with equal planes that is not skipped scores the sentinel in all four series; and
the canonical program (R240, R241) on two identical files ends with the sentinel in all four means when some luma byte of
some frame it reads is not 0, and otherwise, with no frame at all too, with `NO_DATA` and the frame count. That host is the
model's (log entries 3 and 18), and its line `FRAME` is one step (log entry 6). -/
def Obligations.EqualPlanesScoreTheSentinel : Prop :=
  (∀ s : State, s.regs.phase = .ready → s.regs.pv = ⟨true, true⟩ → s.regs.frameIdx ≠ 0xFFFFFFFF#32 →
    s.lengthsFit = true → (∃ k, k < s.regs.zrefLen.toNat ∧ s.readPl .b .y k ≠ 0#16) →
    (∀ p k, k < (s.regs.layout.get p).len.toNat → s.readPl .a p k = s.readPl .b p k) →
    ∃ t, exec .score s = .next t ∧ t.regs.psnr = ⟨0x80000000#32, 0x80000000#32, 0x80000000#32, 0x80000000#32⟩ ∧
      t.regs.sse = ⟨0#48, 0#48, 0#48⟩ ∧ t.regs.nans = ⟨true, true, true, true⟩ ∧ t.regs.sum = s.regs.sum ∧
      t.regs.used = s.regs.used + 1#32) ∧
  ∀ (s : State) (w h : Nat) (fmtIn fmtOut : Tag) (file : List Byte) (cap : Option Nat), s.cfg.wf →
    1 ≤ w → w < 2 ^ 16 → 1 ≤ h → h < 2 ^ 16 → fmtIn.toNat ≤ 6 → fmtOut.toNat ≤ 6 →
    let d := rom (romIndex fmtIn)
    let fs := frameBytes (descClass d) (w * h)
    let luma := descRange d (w * h) .y
    let n := frameCount file.length file.length fs cap
    minArea (descClass d) ≤ w * h → fs ≤ s.cfg.fbBytes → n < 2 ^ 32 →
    ((∃ i k v, i < n ∧ k < luma.len ∧ file[i * fs + (luma.start + k * luma.stride)]? = some v ∧ v ≠ 0#8) →
      ∃ t, runFiles w h fmtIn fmtOut file file cap s =
        .next (t, .result ⟨0x80000000#32, 0x80000000#32, 0x80000000#32, 0x80000000#32⟩)) ∧
    ((∀ i k, i < n → k < luma.len → file[i * fs + (luma.start + k * luma.stride)]? = some 0#8) →
      ∃ t, runFiles w h fmtIn fmtOut file file cap s = .next (t, .failure 3#32 (BitVec.ofNat 32 n)))

/-! ### FIN and FRAME -/

/-- R202, R203: `FIN` writes the four means and the phase, and changes nothing else. -/
def Obligations.FinWritesTheMeans : Prop :=
  ∀ s : State, s.regs.phase = .ready → s.regs.used ≠ 0#32 →
    let mean := fun (sum : Sum48) (nan : Bool) =>
      if nan = true then 0x80000000#32 else BitVec.ofNat 32 (sum.toNat / s.regs.used.toNat)
    exec .fin s = .next { s with regs := { s.regs with
      phase := .done
      mean := ⟨mean s.regs.sum.y s.regs.nans.y, mean s.regs.sum.cb s.regs.nans.cb,
        mean s.regs.sum.cr s.regs.nans.cr, mean s.regs.sum.c s.regs.nans.c⟩ } }

/-- R203: where the accumulator invariant holds, a mean without sentinel is the floor of the quotient, at most 36981. -/
def Obligations.MeansAreExact : Prop :=
  ∀ s t : State, s.CountersOk → s.regs.phase = .ready → s.regs.used ≠ 0#32 → exec .fin s = .next t →
    (s.regs.nans.y = false → t.regs.mean.y.toNat = s.regs.sum.y.toNat / s.regs.used.toNat) ∧
    (s.regs.nans.cb = false → t.regs.mean.cb.toNat = s.regs.sum.cb.toNat / s.regs.used.toNat) ∧
    (s.regs.nans.cr = false → t.regs.mean.cr.toNat = s.regs.sum.cr.toNat / s.regs.used.toNat) ∧
    (s.regs.nans.c = false → t.regs.mean.c.toNat = s.regs.sum.c.toNat / s.regs.used.toNat) ∧
    seriesLegal t.regs.mean

/-- R204: `FIN` without a used frame raises `NO_DATA` with the frame count. -/
def Obligations.FinWithoutDataFaults : Prop :=
  ∀ s : State, s.regs.phase = .ready → s.regs.used = 0#32 →
    exec .fin s = .next (s.faultedWith 3#8 0#1 s.regs.frameIdx)

/-- R170, R190, R232: `FRAME` with both buffers loaded extracts both sides and scores them, advancing `FRAME_IDX` by one;
a frame pair that is not skipped is accumulated as by `SCORE`. That it is one step is the model's choice (log entry 6), and
so are the two clauses that ExtractCopiesThePlanes names: cells from `p_LEN` on (log entry 13) and bytes the host never
wrote (log entry 2). -/
def Obligations.FrameExtractsAndScores : Prop :=
  ∀ s : State, s.regs.phase = .ready → s.regs.frameSize.toNat ≤ s.regs.lenBytes.a.toNat →
    s.regs.frameSize.toNat ≤ s.regs.lenBytes.b.toNat → s.layoutFits = true → s.lengthsFit = true →
    s.regs.frameIdx ≠ 0xFFFFFFFF#32 →
    let add := fun (sum : Sum48) (v : Word) =>
      if v = 0x80000000#32 then sum else sum + (v.extractLsb' 0 16).setWidth 48
    ∃ t, exec .frame s = .next t ∧ t.regs.phase = .ready ∧ t.regs.frameIdx = s.regs.frameIdx + 1#32 ∧
      t.regs.pv = ⟨false, false⟩ ∧
      (∀ side p k, t.readPl side p k = if k < (s.regs.layout.get p).len.toNat
        then (s.readFb side ((s.regs.layout.get p).start.toNat + k * (s.regs.layout.get p).stride.toNat)).setWidth 16
        else s.readPl side p k) ∧
      (t.regs.skipped = true ↔ ∀ k, k < s.regs.zrefLen.toNat → t.readPl .b .y k = 0#16) ∧
      (t.regs.skipped = true → t.regs.used = s.regs.used ∧ t.regs.sse = s.regs.sse ∧ t.regs.psnr = s.regs.psnr ∧
        t.regs.sum = s.regs.sum ∧ t.regs.nans = s.regs.nans) ∧
      (t.regs.skipped = false → t.regs.used = s.regs.used + 1#32 ∧ t.regs.psnr = t.framePsnr ∧
        (∀ p, t.regs.sse.get p = BitVec.ofNat 48 (t.sseOf p)) ∧
        t.regs.sum = ⟨add s.regs.sum.y t.regs.psnr.y, add s.regs.sum.cb t.regs.psnr.cb,
          add s.regs.sum.cr t.regs.psnr.cr, add s.regs.sum.c t.regs.psnr.c⟩ ∧
        t.regs.nans = ⟨s.regs.nans.y || t.regs.psnr.y == 0x80000000#32, s.regs.nans.cb || t.regs.psnr.cb == 0x80000000#32,
          s.regs.nans.cr || t.regs.psnr.cr == 0x80000000#32, s.regs.nans.c || t.regs.psnr.c == 0x80000000#32⟩) ∧
      t.regs.mean = s.regs.mean ∧ t.regs.warn16 = s.regs.warn16 ∧ sameFrameBuffers s t ∧ sameHostRegs s t ∧
      sameLayout s t ∧ sameFaultRecord s t ∧ samePort s t

/-! ### Invariants -/

/-- R48, R70, R172: every step keeps the memories canonical, inside their spaces, and byte-valued in the planes. -/
def Obligations.StepKeepsMemoriesOk : Prop :=
  ∀ s t : State, s.memoriesOk → step s = .next t → t.memoriesOk

/-- R7, R30, R31, R32, R34, R48, R175: every step keeps the session invariant. -/
def Obligations.StepKeepsSessionOk : Prop :=
  ∀ s t : State, s.SessionOk → step s = .next t → t.SessionOk

/-- R36, R37, R38, R45, R200: every step keeps the accumulator invariant. -/
def Obligations.StepKeepsCountersOk : Prop :=
  ∀ s t : State, s.CountersOk → step s = .next t → t.CountersOk

/-- R25, R39, R263, R264, R301: every step keeps the phase invariant. -/
def Obligations.StepKeepsPhaseOk : Prop :=
  ∀ s t : State, s.PhaseOk → step s = .next t → t.PhaseOk

/-- R301, R302: the reset state meets the four invariants. -/
def Obligations.ResetMeetsTheInvariants : Prop :=
  State.reset.memoriesOk ∧ State.reset.SessionOk ∧ State.reset.CountersOk ∧ State.reset.PhaseOk

/-- R170 (corner cases), R234, R305: in a state of the session invariant no instruction stops the model: the guards of
`EXT` and `SCORE` that are the model's own (log entry 9) are never met there. -/
def Obligations.InvariantStatesNeverStop : Prop :=
  ∀ (i : Instr) (s : State), s.SessionOk → ∃ t, exec i s = .next t
end

