-- ==== Sys2Proof/Laws/Memory.lean ====
section
/-! SUPPORT. The laws of a memory: reading after writing, the canonical form, the bounds on its cells. -/

namespace Sys2Proof.Machine

variable {w : Nat}

@[simp] theorem Memory.read?_nil (a : Nat) : Memory.read? ([] : Memory w) a = none := rfl

/-- A cell reads what was last written to it. -/
@[simp] theorem Memory.read?_write_same (m : Memory w) (a : Nat) (v : BitVec w) :
    Memory.read? (Memory.write m a v) a = some v := by
  induction m with
  | nil => simp [Memory.write, Memory.read?]
  | cons e m ih =>
    obtain ⟨b, u⟩ := e
    simp only [Memory.write]
    split
    · simp [Memory.read?]
    · split
      · simp [Memory.read?]
      · rename_i _ h
        simp [Memory.read?, h, ih]

/-- A write leaves every other cell alone. -/
theorem Memory.read?_write_other (m : Memory w) {a c : Nat} (v : BitVec w) (h : c ≠ a) :
    Memory.read? (Memory.write m a v) c = Memory.read? m c := by
  induction m with
  | nil => simp [Memory.write, Memory.read?, h]
  | cons e m ih =>
    obtain ⟨b, u⟩ := e
    simp only [Memory.write]
    split
    · simp [Memory.read?, h]
    · split
      · rename_i hb
        subst hb
        simp [Memory.read?, h]
      · simp [Memory.read?, ih]

/-- Reading after a write, at any cell. -/
theorem Memory.read?_write (m : Memory w) (a c : Nat) (v : BitVec w) :
    Memory.read? (Memory.write m a v) c = if c = a then some v else Memory.read? m c := by
  split
  · rename_i h
    subst h
    simp
  · rename_i h
    exact Memory.read?_write_other m v h

/-- The entries of a memory after a write. -/
theorem Memory.mem_write {m : Memory w} {a : Nat} {v : BitVec w} {e : Nat × BitVec w}
    (h : e ∈ Memory.write m a v) : e = (a, v) ∨ e ∈ m := by
  induction m with
  | nil => simpa [Memory.write] using h
  | cons x m ih =>
    obtain ⟨b, u⟩ := x
    simp only [Memory.write] at h
    split at h
    · simpa using h
    · split at h
      · rcases List.mem_cons.mp h with h | h
        · exact .inl h
        · exact .inr (List.mem_cons_of_mem _ h)
      · rcases List.mem_cons.mp h with h | h
        · exact .inr (by simp [h])
        · rcases ih h with h | h
          · exact .inl h
          · exact .inr (List.mem_cons_of_mem _ h)

/-- A write keeps the canonical form. -/
theorem Memory.wf_write {m : Memory w} (h : Memory.wf m) (a : Nat) (v : BitVec w) :
    Memory.wf (Memory.write m a v) := by
  induction m with
  | nil => simp [Memory.write, Memory.wf]
  | cons x m ih =>
    obtain ⟨b, u⟩ := x
    have hx := List.pairwise_cons.mp h
    simp only [Memory.write]
    split
    · rename_i hab
      refine List.pairwise_cons.mpr ⟨fun e he => ?_, h⟩
      rcases List.mem_cons.mp he with he | he
      · simpa [he] using hab
      · exact Nat.lt_trans hab (hx.1 e he)
    · split
      · rename_i hab
        subst hab
        exact List.pairwise_cons.mpr ⟨hx.1, hx.2⟩
      · rename_i h1 h2
        refine List.pairwise_cons.mpr ⟨fun e he => ?_, ih hx.2⟩
        rcases Memory.mem_write he with he | he
        · subst he
          show b < a
          omega
        · exact hx.1 e he

/-- A write below the capacity keeps every cell below it. -/
theorem Memory.below_write {m : Memory w} {cap : Nat} (h : Memory.below m cap) {a : Nat} (ha : a < cap)
    (v : BitVec w) : Memory.below (Memory.write m a v) cap := by
  intro e he
  rcases Memory.mem_write he with he | he
  · subst he
    exact ha
  · exact h e he

/-- Reading after a fill: the first `n` cells hold `f`, the others are as before. -/
theorem Memory.read?_fill (m : Memory w) (f : Nat → BitVec w) (n k : Nat) :
    Memory.read? (Memory.fill m f n) k = if k < n then some (f k) else Memory.read? m k := by
  induction n with
  | zero => simp [Memory.fill]
  | succ n ih =>
    rw [Memory.fill, Memory.read?_write, ih]
    by_cases hk : k = n
    · subst hk
      simp
    · by_cases hlt : k < n
      · simp [hk, hlt, Nat.lt_succ_of_lt hlt]
      · have : ¬ k < n + 1 := by omega
        simp [hk, hlt, this]

/-- A fill keeps the canonical form. -/
theorem Memory.wf_fill {m : Memory w} (h : Memory.wf m) (f : Nat → BitVec w) (n : Nat) :
    Memory.wf (Memory.fill m f n) := by
  induction n with
  | zero => exact h
  | succ n ih => exact Memory.wf_write ih n (f n)

/-- The entries of a memory after a fill. -/
theorem Memory.mem_fill {m : Memory w} {f : Nat → BitVec w} {n : Nat} {e : Nat × BitVec w}
    (h : e ∈ Memory.fill m f n) : (∃ k, k < n ∧ e = (k, f k)) ∨ e ∈ m := by
  induction n with
  | zero => exact .inr h
  | succ n ih =>
    rcases Memory.mem_write h with h | h
    · exact .inl ⟨n, Nat.lt_succ_self n, h⟩
    · rcases ih h with ⟨k, hk, he⟩ | h
      · exact .inl ⟨k, Nat.lt_succ_of_lt hk, he⟩
      · exact .inr h

@[simp] theorem Sides.get_set_same {α : Type} (x : Sides α) (s : Side) (v : α) : (x.set s v).get s = v := by
  cases s <;> rfl

/-- Replacing one side's thing leaves the other's. -/
theorem Sides.get_set_other {α : Type} (x : Sides α) {s t : Side} (v : α) (h : t ≠ s) :
    (x.set s v).get t = x.get t := by
  cases s <;> cases t <;> first | rfl | exact absurd rfl h

@[simp] theorem Planes.get_tabulate {α : Type} (f : Plane → α) (p : Plane) :
    (Planes.tabulate f).get p = f p := by
  cases p <;> rfl

/-- Reading a frame-buffer byte after a host write. -/
theorem readFb_writeFb (s : State) (side t : Side) (a c : Nat) (v : Byte) :
    (s.writeFb side a v).readFb t c = if t = side ∧ c = a then v else s.readFb t c := by
  by_cases h : t = side
  · subst h
    by_cases hc : c = a <;> simp [State.readFb, State.writeFb, Memory.read?_write, hc]
  · simp [State.readFb, State.writeFb, Sides.get_set_other s.fb _ h, h]

/-- Reading a plane sample after an extraction. -/
theorem readPl_extract (s : State) (side t : Side) (p : Plane) (k : Nat) :
    (s.extract side).readPl t p k =
      if t = side ∧ k < (s.regs.layout.get p).len.toNat then s.sampleAt side (s.regs.layout.get p) k
      else s.readPl t p k := by
  by_cases h : t = side
  · subst h
    by_cases hk : k < (s.regs.layout.get p).len.toNat <;>
      simp [State.readPl, State.extract, State.extractedPlane, Memory.read?_fill, hk]
  · simp [State.readPl, State.extract, Sides.get_set_other s.pl _ h, h]

/-- A memory that nothing has written is in canonical form. -/
theorem Memory.wf_nil : Memory.wf ([] : Memory w) := List.Pairwise.nil

/-- A fill below the capacity keeps every cell below it. -/
theorem Memory.below_fill {m : Memory w} {cap : Nat} (h : Memory.below m cap) (f : Nat → BitVec w) {n : Nat}
    (hn : n ≤ cap) : Memory.below (Memory.fill m f n) cap := by
  intro e he
  rcases Memory.mem_fill he with ⟨k, hk, rfl⟩ | he
  · exact Nat.lt_of_lt_of_le hk hn
  · exact h e he

/-- Re-packing one plane keeps the canonical form. -/
theorem wf_repackPlane (r : PlaneRange) (f : Nat → Byte) {m : Memory 8} (h : Memory.wf m) (n : Nat) :
    Memory.wf (repackPlane r f m n) := by
  induction n with
  | zero => exact h
  | succ n ih => exact Memory.wf_write ih _ _

/-- The canonical form of a state's memories depends on the memories alone. -/
theorem memoriesOk_withRegs {s : State} (h : s.memoriesOk) (r : Regs) : (s.withRegs r).memoriesOk := h

/-- A host write of a frame-buffer cell that exists keeps the memories canonical. -/
theorem memoriesOk_writeFb {s : State} (h : s.memoriesOk) {side : Side} {a : Nat} (ha : a < s.cfg.fbBytes) (v : Byte) :
    (s.writeFb side a v).memoriesOk := by
  refine ⟨fun t => ?_, h.2⟩
  by_cases ht : t = side
  · subst ht
    simpa [State.writeFb] using
      And.intro (Memory.wf_write (h.1 t).1 a v) (Memory.below_write (h.1 t).2 ha v)
  · simpa [State.writeFb, Sides.get_set_other s.fb _ ht] using h.1 t

end Sys2Proof.Machine
end

