-- ==== Sys2Proof/Laws/State.lean ====
section
/-! SUPPORT. What each update of the state and of the registers does to each field, true by `rfl`, so that no proof
unfolds an update. -/

namespace Sys2Proof.Machine

/-! ### `State.withRegs` -/

@[simp] theorem State.withRegs_regs (s : State) (r : Regs) :
    (s.withRegs r).regs = r := rfl

@[simp] theorem State.withRegs_fb (s : State) (r : Regs) :
    (s.withRegs r).fb = s.fb := rfl

@[simp] theorem State.withRegs_pl (s : State) (r : Regs) :
    (s.withRegs r).pl = s.pl := rfl

@[simp] theorem State.withRegs_cfg (s : State) (r : Regs) :
    (s.withRegs r).cfg = s.cfg := rfl

@[simp] theorem State.withRegs_powerOns (s : State) (r : Regs) :
    (s.withRegs r).powerOns = s.powerOns := rfl

@[simp] theorem State.withRegs_port (s : State) (r : Regs) :
    (s.withRegs r).port = s.port := rfl

@[simp] theorem State.withRegs_answer (s : State) (r : Regs) :
    (s.withRegs r).answer = s.answer := rfl

/-! ### `State.enterFault` -/

@[simp] theorem State.enterFault_regs (s : State) (code : FaultCode) (sel : BitVec 1) (info : Word) :
    (s.enterFault code sel info).regs = s.regs.enterFault code sel info := rfl

@[simp] theorem State.enterFault_fb (s : State) (code : FaultCode) (sel : BitVec 1) (info : Word) :
    (s.enterFault code sel info).fb = s.fb := rfl

@[simp] theorem State.enterFault_pl (s : State) (code : FaultCode) (sel : BitVec 1) (info : Word) :
    (s.enterFault code sel info).pl = s.pl := rfl

@[simp] theorem State.enterFault_cfg (s : State) (code : FaultCode) (sel : BitVec 1) (info : Word) :
    (s.enterFault code sel info).cfg = s.cfg := rfl

@[simp] theorem State.enterFault_powerOns (s : State) (code : FaultCode) (sel : BitVec 1) (info : Word) :
    (s.enterFault code sel info).powerOns = s.powerOns := rfl

@[simp] theorem State.enterFault_port (s : State) (code : FaultCode) (sel : BitVec 1) (info : Word) :
    (s.enterFault code sel info).port = s.port := rfl

@[simp] theorem State.enterFault_answer (s : State) (code : FaultCode) (sel : BitVec 1) (info : Word) :
    (s.enterFault code sel info).answer = s.answer := rfl

/-! ### `State.softReset` -/

@[simp] theorem State.softReset_regs (s : State) :
    (s.softReset).regs = Regs.zero := rfl

@[simp] theorem State.softReset_fb (s : State) :
    (s.softReset).fb = s.fb := rfl

@[simp] theorem State.softReset_pl (s : State) :
    (s.softReset).pl = s.pl := rfl

@[simp] theorem State.softReset_cfg (s : State) :
    (s.softReset).cfg = s.cfg := rfl

@[simp] theorem State.softReset_powerOns (s : State) :
    (s.softReset).powerOns = s.powerOns := rfl

@[simp] theorem State.softReset_port (s : State) :
    (s.softReset).port = s.port := rfl

@[simp] theorem State.softReset_answer (s : State) :
    (s.softReset).answer = s.answer := rfl

/-! ### `State.hardwareReset` -/

@[simp] theorem State.hardwareReset_regs (s : State) :
    (s.hardwareReset).regs = Regs.zero := rfl

@[simp] theorem State.hardwareReset_fb (s : State) :
    (s.hardwareReset).fb = ⟨[], []⟩ := rfl

@[simp] theorem State.hardwareReset_pl (s : State) :
    (s.hardwareReset).pl = ⟨⟨[], [], []⟩, ⟨[], [], []⟩⟩ := rfl

@[simp] theorem State.hardwareReset_cfg (s : State) :
    (s.hardwareReset).cfg = s.cfg := rfl

@[simp] theorem State.hardwareReset_powerOns (s : State) :
    (s.hardwareReset).powerOns = s.powerOns + 1 := rfl

@[simp] theorem State.hardwareReset_port (s : State) :
    (s.hardwareReset).port = s.port := rfl

@[simp] theorem State.hardwareReset_answer (s : State) :
    (s.hardwareReset).answer = s.answer := rfl

/-! ### `State.extract` -/

@[simp] theorem State.extract_regs (s : State) (side : Side) :
    (s.extract side).regs = s.regs.markExtracted side := rfl

@[simp] theorem State.extract_fb (s : State) (side : Side) :
    (s.extract side).fb = s.fb := rfl

@[simp] theorem State.extract_pl (s : State) (side : Side) :
    (s.extract side).pl = s.pl.set side (Planes.tabulate (s.extractedPlane side)) := rfl

@[simp] theorem State.extract_cfg (s : State) (side : Side) :
    (s.extract side).cfg = s.cfg := rfl

@[simp] theorem State.extract_powerOns (s : State) (side : Side) :
    (s.extract side).powerOns = s.powerOns := rfl

@[simp] theorem State.extract_port (s : State) (side : Side) :
    (s.extract side).port = s.port := rfl

@[simp] theorem State.extract_answer (s : State) (side : Side) :
    (s.extract side).answer = s.answer := rfl

/-! ### `State.writeFb` -/

@[simp] theorem State.writeFb_regs (s : State) (side : Side) (a : Nat) (v : Byte) :
    (s.writeFb side a v).regs = s.regs := rfl

@[simp] theorem State.writeFb_fb (s : State) (side : Side) (a : Nat) (v : Byte) :
    (s.writeFb side a v).fb = s.fb.set side (Memory.write (s.fb.get side) a v) := rfl

@[simp] theorem State.writeFb_pl (s : State) (side : Side) (a : Nat) (v : Byte) :
    (s.writeFb side a v).pl = s.pl := rfl

@[simp] theorem State.writeFb_cfg (s : State) (side : Side) (a : Nat) (v : Byte) :
    (s.writeFb side a v).cfg = s.cfg := rfl

@[simp] theorem State.writeFb_powerOns (s : State) (side : Side) (a : Nat) (v : Byte) :
    (s.writeFb side a v).powerOns = s.powerOns := rfl

@[simp] theorem State.writeFb_port (s : State) (side : Side) (a : Nat) (v : Byte) :
    (s.writeFb side a v).port = s.port := rfl

@[simp] theorem State.writeFb_answer (s : State) (side : Side) (a : Nat) (v : Byte) :
    (s.writeFb side a v).answer = s.answer := rfl

/-! ### `State.answering` -/

@[simp] theorem State.answering_regs (s : State) (v : CellValue) :
    (s.answering v).regs = s.regs := rfl

@[simp] theorem State.answering_fb (s : State) (v : CellValue) :
    (s.answering v).fb = s.fb := rfl

@[simp] theorem State.answering_pl (s : State) (v : CellValue) :
    (s.answering v).pl = s.pl := rfl

@[simp] theorem State.answering_cfg (s : State) (v : CellValue) :
    (s.answering v).cfg = s.cfg := rfl

@[simp] theorem State.answering_powerOns (s : State) (v : CellValue) :
    (s.answering v).powerOns = s.powerOns := rfl

@[simp] theorem State.answering_port (s : State) (v : CellValue) :
    (s.answering v).port = s.port := rfl

@[simp] theorem State.answering_answer (s : State) (v : CellValue) :
    (s.answering v).answer = some v := rfl

/-! ### `Regs.enterFault` -/

@[simp] theorem Regs.enterFault_phase (r : Regs) (code : FaultCode) (sel : BitVec 1) (info : Word) :
    (r.enterFault code sel info).phase = .faulted := rfl

@[simp] theorem Regs.enterFault_pv (r : Regs) (code : FaultCode) (sel : BitVec 1) (info : Word) :
    (r.enterFault code sel info).pv = r.pv := rfl

@[simp] theorem Regs.enterFault_skipped (r : Regs) (code : FaultCode) (sel : BitVec 1) (info : Word) :
    (r.enterFault code sel info).skipped = r.skipped := rfl

@[simp] theorem Regs.enterFault_warn16 (r : Regs) (code : FaultCode) (sel : BitVec 1) (info : Word) :
    (r.enterFault code sel info).warn16 = r.warn16 := rfl

@[simp] theorem Regs.enterFault_causeCode (r : Regs) (code : FaultCode) (sel : BitVec 1) (info : Word) :
    (r.enterFault code sel info).causeCode = faultNumber code := rfl

@[simp] theorem Regs.enterFault_causeSel (r : Regs) (code : FaultCode) (sel : BitVec 1) (info : Word) :
    (r.enterFault code sel info).causeSel = sel := rfl

@[simp] theorem Regs.enterFault_finfo (r : Regs) (code : FaultCode) (sel : BitVec 1) (info : Word) :
    (r.enterFault code sel info).finfo = info := rfl

@[simp] theorem Regs.enterFault_width (r : Regs) (code : FaultCode) (sel : BitVec 1) (info : Word) :
    (r.enterFault code sel info).width = r.width := rfl

@[simp] theorem Regs.enterFault_height (r : Regs) (code : FaultCode) (sel : BitVec 1) (info : Word) :
    (r.enterFault code sel info).height = r.height := rfl

@[simp] theorem Regs.enterFault_fmtIn (r : Regs) (code : FaultCode) (sel : BitVec 1) (info : Word) :
    (r.enterFault code sel info).fmtIn = r.fmtIn := rfl

@[simp] theorem Regs.enterFault_fmtOut (r : Regs) (code : FaultCode) (sel : BitVec 1) (info : Word) :
    (r.enterFault code sel info).fmtOut = r.fmtOut := rfl

@[simp] theorem Regs.enterFault_lenBytes (r : Regs) (code : FaultCode) (sel : BitVec 1) (info : Word) :
    (r.enterFault code sel info).lenBytes = r.lenBytes := rfl

@[simp] theorem Regs.enterFault_desc (r : Regs) (code : FaultCode) (sel : BitVec 1) (info : Word) :
    (r.enterFault code sel info).desc = r.desc := rfl

@[simp] theorem Regs.enterFault_frameSize (r : Regs) (code : FaultCode) (sel : BitVec 1) (info : Word) :
    (r.enterFault code sel info).frameSize = r.frameSize := rfl

@[simp] theorem Regs.enterFault_layout (r : Regs) (code : FaultCode) (sel : BitVec 1) (info : Word) :
    (r.enterFault code sel info).layout = r.layout := rfl

@[simp] theorem Regs.enterFault_zrefLen (r : Regs) (code : FaultCode) (sel : BitVec 1) (info : Word) :
    (r.enterFault code sel info).zrefLen = r.zrefLen := rfl

@[simp] theorem Regs.enterFault_sse (r : Regs) (code : FaultCode) (sel : BitVec 1) (info : Word) :
    (r.enterFault code sel info).sse = r.sse := rfl

@[simp] theorem Regs.enterFault_psnr (r : Regs) (code : FaultCode) (sel : BitVec 1) (info : Word) :
    (r.enterFault code sel info).psnr = r.psnr := rfl

@[simp] theorem Regs.enterFault_frameIdx (r : Regs) (code : FaultCode) (sel : BitVec 1) (info : Word) :
    (r.enterFault code sel info).frameIdx = r.frameIdx := rfl

@[simp] theorem Regs.enterFault_used (r : Regs) (code : FaultCode) (sel : BitVec 1) (info : Word) :
    (r.enterFault code sel info).used = r.used := rfl

@[simp] theorem Regs.enterFault_sum (r : Regs) (code : FaultCode) (sel : BitVec 1) (info : Word) :
    (r.enterFault code sel info).sum = r.sum := rfl

@[simp] theorem Regs.enterFault_nans (r : Regs) (code : FaultCode) (sel : BitVec 1) (info : Word) :
    (r.enterFault code sel info).nans = r.nans := rfl

@[simp] theorem Regs.enterFault_mean (r : Regs) (code : FaultCode) (sel : BitVec 1) (info : Word) :
    (r.enterFault code sel info).mean = r.mean := rfl

/-! ### `Regs.openSession` -/

@[simp] theorem Regs.openSession_phase (r : Regs) (d : Word) (wh : Nat) :
    (r.openSession d wh).phase = .ready := rfl

@[simp] theorem Regs.openSession_pv (r : Regs) (d : Word) (wh : Nat) :
    (r.openSession d wh).pv = ⟨false, false⟩ := rfl

@[simp] theorem Regs.openSession_skipped (r : Regs) (d : Word) (wh : Nat) :
    (r.openSession d wh).skipped = false := rfl

@[simp] theorem Regs.openSession_warn16 (r : Regs) (d : Word) (wh : Nat) :
    (r.openSession d wh).warn16 = needsWarn16 r.width.toNat r.height.toNat := rfl

@[simp] theorem Regs.openSession_causeCode (r : Regs) (d : Word) (wh : Nat) :
    (r.openSession d wh).causeCode = r.causeCode := rfl

@[simp] theorem Regs.openSession_causeSel (r : Regs) (d : Word) (wh : Nat) :
    (r.openSession d wh).causeSel = r.causeSel := rfl

@[simp] theorem Regs.openSession_finfo (r : Regs) (d : Word) (wh : Nat) :
    (r.openSession d wh).finfo = r.finfo := rfl

@[simp] theorem Regs.openSession_width (r : Regs) (d : Word) (wh : Nat) :
    (r.openSession d wh).width = r.width := rfl

@[simp] theorem Regs.openSession_height (r : Regs) (d : Word) (wh : Nat) :
    (r.openSession d wh).height = r.height := rfl

@[simp] theorem Regs.openSession_fmtIn (r : Regs) (d : Word) (wh : Nat) :
    (r.openSession d wh).fmtIn = r.fmtIn := rfl

@[simp] theorem Regs.openSession_fmtOut (r : Regs) (d : Word) (wh : Nat) :
    (r.openSession d wh).fmtOut = r.fmtOut := rfl

@[simp] theorem Regs.openSession_lenBytes (r : Regs) (d : Word) (wh : Nat) :
    (r.openSession d wh).lenBytes = r.lenBytes := rfl

@[simp] theorem Regs.openSession_desc (r : Regs) (d : Word) (wh : Nat) :
    (r.openSession d wh).desc = d := rfl

@[simp] theorem Regs.openSession_frameSize (r : Regs) (d : Word) (wh : Nat) :
    (r.openSession d wh).frameSize = BitVec.ofNat 32 (frameBytes (descClass d) wh) := rfl

@[simp] theorem Regs.openSession_layout (r : Regs) (d : Word) (wh : Nat) :
    (r.openSession d wh).layout = Planes.tabulate fun p => (descRange d wh p).toRegs := rfl

@[simp] theorem Regs.openSession_zrefLen (r : Regs) (d : Word) (wh : Nat) :
    (r.openSession d wh).zrefLen = BitVec.ofNat 32 wh := rfl

@[simp] theorem Regs.openSession_sse (r : Regs) (d : Word) (wh : Nat) :
    (r.openSession d wh).sse = ⟨0#48, 0#48, 0#48⟩ := rfl

@[simp] theorem Regs.openSession_psnr (r : Regs) (d : Word) (wh : Nat) :
    (r.openSession d wh).psnr = ⟨0#32, 0#32, 0#32, 0#32⟩ := rfl

@[simp] theorem Regs.openSession_frameIdx (r : Regs) (d : Word) (wh : Nat) :
    (r.openSession d wh).frameIdx = 0#32 := rfl

@[simp] theorem Regs.openSession_used (r : Regs) (d : Word) (wh : Nat) :
    (r.openSession d wh).used = 0#32 := rfl

@[simp] theorem Regs.openSession_sum (r : Regs) (d : Word) (wh : Nat) :
    (r.openSession d wh).sum = ⟨0#48, 0#48, 0#48, 0#48⟩ := rfl

@[simp] theorem Regs.openSession_nans (r : Regs) (d : Word) (wh : Nat) :
    (r.openSession d wh).nans = ⟨false, false, false, false⟩ := rfl

@[simp] theorem Regs.openSession_mean (r : Regs) (d : Word) (wh : Nat) :
    (r.openSession d wh).mean = ⟨0#32, 0#32, 0#32, 0#32⟩ := rfl

/-! ### `Regs.markExtracted` -/

@[simp] theorem Regs.markExtracted_phase (r : Regs) (side : Side) :
    (r.markExtracted side).phase = r.phase := rfl

@[simp] theorem Regs.markExtracted_pv (r : Regs) (side : Side) :
    (r.markExtracted side).pv = r.pv.set side true := rfl

@[simp] theorem Regs.markExtracted_skipped (r : Regs) (side : Side) :
    (r.markExtracted side).skipped = r.skipped := rfl

@[simp] theorem Regs.markExtracted_warn16 (r : Regs) (side : Side) :
    (r.markExtracted side).warn16 = r.warn16 := rfl

@[simp] theorem Regs.markExtracted_causeCode (r : Regs) (side : Side) :
    (r.markExtracted side).causeCode = r.causeCode := rfl

@[simp] theorem Regs.markExtracted_causeSel (r : Regs) (side : Side) :
    (r.markExtracted side).causeSel = r.causeSel := rfl

@[simp] theorem Regs.markExtracted_finfo (r : Regs) (side : Side) :
    (r.markExtracted side).finfo = r.finfo := rfl

@[simp] theorem Regs.markExtracted_width (r : Regs) (side : Side) :
    (r.markExtracted side).width = r.width := rfl

@[simp] theorem Regs.markExtracted_height (r : Regs) (side : Side) :
    (r.markExtracted side).height = r.height := rfl

@[simp] theorem Regs.markExtracted_fmtIn (r : Regs) (side : Side) :
    (r.markExtracted side).fmtIn = r.fmtIn := rfl

@[simp] theorem Regs.markExtracted_fmtOut (r : Regs) (side : Side) :
    (r.markExtracted side).fmtOut = r.fmtOut := rfl

@[simp] theorem Regs.markExtracted_lenBytes (r : Regs) (side : Side) :
    (r.markExtracted side).lenBytes = r.lenBytes := rfl

@[simp] theorem Regs.markExtracted_desc (r : Regs) (side : Side) :
    (r.markExtracted side).desc = r.desc := rfl

@[simp] theorem Regs.markExtracted_frameSize (r : Regs) (side : Side) :
    (r.markExtracted side).frameSize = r.frameSize := rfl

@[simp] theorem Regs.markExtracted_layout (r : Regs) (side : Side) :
    (r.markExtracted side).layout = r.layout := rfl

@[simp] theorem Regs.markExtracted_zrefLen (r : Regs) (side : Side) :
    (r.markExtracted side).zrefLen = r.zrefLen := rfl

@[simp] theorem Regs.markExtracted_sse (r : Regs) (side : Side) :
    (r.markExtracted side).sse = r.sse := rfl

@[simp] theorem Regs.markExtracted_psnr (r : Regs) (side : Side) :
    (r.markExtracted side).psnr = r.psnr := rfl

@[simp] theorem Regs.markExtracted_frameIdx (r : Regs) (side : Side) :
    (r.markExtracted side).frameIdx = r.frameIdx := rfl

@[simp] theorem Regs.markExtracted_used (r : Regs) (side : Side) :
    (r.markExtracted side).used = r.used := rfl

@[simp] theorem Regs.markExtracted_sum (r : Regs) (side : Side) :
    (r.markExtracted side).sum = r.sum := rfl

@[simp] theorem Regs.markExtracted_nans (r : Regs) (side : Side) :
    (r.markExtracted side).nans = r.nans := rfl

@[simp] theorem Regs.markExtracted_mean (r : Regs) (side : Side) :
    (r.markExtracted side).mean = r.mean := rfl

/-! ### `Regs.skipFrame` -/

@[simp] theorem Regs.skipFrame_phase (r : Regs) :
    (r.skipFrame).phase = r.phase := rfl

@[simp] theorem Regs.skipFrame_pv (r : Regs) :
    (r.skipFrame).pv = ⟨false, false⟩ := rfl

@[simp] theorem Regs.skipFrame_skipped (r : Regs) :
    (r.skipFrame).skipped = true := rfl

@[simp] theorem Regs.skipFrame_warn16 (r : Regs) :
    (r.skipFrame).warn16 = r.warn16 := rfl

@[simp] theorem Regs.skipFrame_causeCode (r : Regs) :
    (r.skipFrame).causeCode = r.causeCode := rfl

@[simp] theorem Regs.skipFrame_causeSel (r : Regs) :
    (r.skipFrame).causeSel = r.causeSel := rfl

@[simp] theorem Regs.skipFrame_finfo (r : Regs) :
    (r.skipFrame).finfo = r.finfo := rfl

@[simp] theorem Regs.skipFrame_width (r : Regs) :
    (r.skipFrame).width = r.width := rfl

@[simp] theorem Regs.skipFrame_height (r : Regs) :
    (r.skipFrame).height = r.height := rfl

@[simp] theorem Regs.skipFrame_fmtIn (r : Regs) :
    (r.skipFrame).fmtIn = r.fmtIn := rfl

@[simp] theorem Regs.skipFrame_fmtOut (r : Regs) :
    (r.skipFrame).fmtOut = r.fmtOut := rfl

@[simp] theorem Regs.skipFrame_lenBytes (r : Regs) :
    (r.skipFrame).lenBytes = r.lenBytes := rfl

@[simp] theorem Regs.skipFrame_desc (r : Regs) :
    (r.skipFrame).desc = r.desc := rfl

@[simp] theorem Regs.skipFrame_frameSize (r : Regs) :
    (r.skipFrame).frameSize = r.frameSize := rfl

@[simp] theorem Regs.skipFrame_layout (r : Regs) :
    (r.skipFrame).layout = r.layout := rfl

@[simp] theorem Regs.skipFrame_zrefLen (r : Regs) :
    (r.skipFrame).zrefLen = r.zrefLen := rfl

@[simp] theorem Regs.skipFrame_sse (r : Regs) :
    (r.skipFrame).sse = r.sse := rfl

@[simp] theorem Regs.skipFrame_psnr (r : Regs) :
    (r.skipFrame).psnr = r.psnr := rfl

@[simp] theorem Regs.skipFrame_frameIdx (r : Regs) :
    (r.skipFrame).frameIdx = r.frameIdx + 1#32 := rfl

@[simp] theorem Regs.skipFrame_used (r : Regs) :
    (r.skipFrame).used = r.used := rfl

@[simp] theorem Regs.skipFrame_sum (r : Regs) :
    (r.skipFrame).sum = r.sum := rfl

@[simp] theorem Regs.skipFrame_nans (r : Regs) :
    (r.skipFrame).nans = r.nans := rfl

@[simp] theorem Regs.skipFrame_mean (r : Regs) :
    (r.skipFrame).mean = r.mean := rfl

/-! ### `Regs.useFrame` -/

@[simp] theorem Regs.useFrame_phase (r : Regs) (e : Planes Nat) (v : Series Word) :
    (r.useFrame e v).phase = r.phase := rfl

@[simp] theorem Regs.useFrame_pv (r : Regs) (e : Planes Nat) (v : Series Word) :
    (r.useFrame e v).pv = ⟨false, false⟩ := rfl

@[simp] theorem Regs.useFrame_skipped (r : Regs) (e : Planes Nat) (v : Series Word) :
    (r.useFrame e v).skipped = false := rfl

@[simp] theorem Regs.useFrame_warn16 (r : Regs) (e : Planes Nat) (v : Series Word) :
    (r.useFrame e v).warn16 = r.warn16 := rfl

@[simp] theorem Regs.useFrame_causeCode (r : Regs) (e : Planes Nat) (v : Series Word) :
    (r.useFrame e v).causeCode = r.causeCode := rfl

@[simp] theorem Regs.useFrame_causeSel (r : Regs) (e : Planes Nat) (v : Series Word) :
    (r.useFrame e v).causeSel = r.causeSel := rfl

@[simp] theorem Regs.useFrame_finfo (r : Regs) (e : Planes Nat) (v : Series Word) :
    (r.useFrame e v).finfo = r.finfo := rfl

@[simp] theorem Regs.useFrame_width (r : Regs) (e : Planes Nat) (v : Series Word) :
    (r.useFrame e v).width = r.width := rfl

@[simp] theorem Regs.useFrame_height (r : Regs) (e : Planes Nat) (v : Series Word) :
    (r.useFrame e v).height = r.height := rfl

@[simp] theorem Regs.useFrame_fmtIn (r : Regs) (e : Planes Nat) (v : Series Word) :
    (r.useFrame e v).fmtIn = r.fmtIn := rfl

@[simp] theorem Regs.useFrame_fmtOut (r : Regs) (e : Planes Nat) (v : Series Word) :
    (r.useFrame e v).fmtOut = r.fmtOut := rfl

@[simp] theorem Regs.useFrame_lenBytes (r : Regs) (e : Planes Nat) (v : Series Word) :
    (r.useFrame e v).lenBytes = r.lenBytes := rfl

@[simp] theorem Regs.useFrame_desc (r : Regs) (e : Planes Nat) (v : Series Word) :
    (r.useFrame e v).desc = r.desc := rfl

@[simp] theorem Regs.useFrame_frameSize (r : Regs) (e : Planes Nat) (v : Series Word) :
    (r.useFrame e v).frameSize = r.frameSize := rfl

@[simp] theorem Regs.useFrame_layout (r : Regs) (e : Planes Nat) (v : Series Word) :
    (r.useFrame e v).layout = r.layout := rfl

@[simp] theorem Regs.useFrame_zrefLen (r : Regs) (e : Planes Nat) (v : Series Word) :
    (r.useFrame e v).zrefLen = r.zrefLen := rfl

@[simp] theorem Regs.useFrame_sse (r : Regs) (e : Planes Nat) (v : Series Word) :
    (r.useFrame e v).sse = ⟨BitVec.ofNat 48 e.y, BitVec.ofNat 48 e.cb, BitVec.ofNat 48 e.cr⟩ := rfl

@[simp] theorem Regs.useFrame_psnr (r : Regs) (e : Planes Nat) (v : Series Word) :
    (r.useFrame e v).psnr = v := rfl

@[simp] theorem Regs.useFrame_frameIdx (r : Regs) (e : Planes Nat) (v : Series Word) :
    (r.useFrame e v).frameIdx = r.frameIdx + 1#32 := rfl

@[simp] theorem Regs.useFrame_used (r : Regs) (e : Planes Nat) (v : Series Word) :
    (r.useFrame e v).used = r.used + 1#32 := rfl

@[simp] theorem Regs.useFrame_sum (r : Regs) (e : Planes Nat) (v : Series Word) :
    (r.useFrame e v).sum = Series.zip sumAfter r.sum v := rfl

@[simp] theorem Regs.useFrame_nans (r : Regs) (e : Planes Nat) (v : Series Word) :
    (r.useFrame e v).nans = Series.zip nanAfter r.nans v := rfl

@[simp] theorem Regs.useFrame_mean (r : Regs) (e : Planes Nat) (v : Series Word) :
    (r.useFrame e v).mean = r.mean := rfl

/-! ### `Regs.finish` -/

@[simp] theorem Regs.finish_phase (r : Regs) :
    (r.finish).phase = .done := rfl

@[simp] theorem Regs.finish_pv (r : Regs) :
    (r.finish).pv = r.pv := rfl

@[simp] theorem Regs.finish_skipped (r : Regs) :
    (r.finish).skipped = r.skipped := rfl

@[simp] theorem Regs.finish_warn16 (r : Regs) :
    (r.finish).warn16 = r.warn16 := rfl

@[simp] theorem Regs.finish_causeCode (r : Regs) :
    (r.finish).causeCode = r.causeCode := rfl

@[simp] theorem Regs.finish_causeSel (r : Regs) :
    (r.finish).causeSel = r.causeSel := rfl

@[simp] theorem Regs.finish_finfo (r : Regs) :
    (r.finish).finfo = r.finfo := rfl

@[simp] theorem Regs.finish_width (r : Regs) :
    (r.finish).width = r.width := rfl

@[simp] theorem Regs.finish_height (r : Regs) :
    (r.finish).height = r.height := rfl

@[simp] theorem Regs.finish_fmtIn (r : Regs) :
    (r.finish).fmtIn = r.fmtIn := rfl

@[simp] theorem Regs.finish_fmtOut (r : Regs) :
    (r.finish).fmtOut = r.fmtOut := rfl

@[simp] theorem Regs.finish_lenBytes (r : Regs) :
    (r.finish).lenBytes = r.lenBytes := rfl

@[simp] theorem Regs.finish_desc (r : Regs) :
    (r.finish).desc = r.desc := rfl

@[simp] theorem Regs.finish_frameSize (r : Regs) :
    (r.finish).frameSize = r.frameSize := rfl

@[simp] theorem Regs.finish_layout (r : Regs) :
    (r.finish).layout = r.layout := rfl

@[simp] theorem Regs.finish_zrefLen (r : Regs) :
    (r.finish).zrefLen = r.zrefLen := rfl

@[simp] theorem Regs.finish_sse (r : Regs) :
    (r.finish).sse = r.sse := rfl

@[simp] theorem Regs.finish_psnr (r : Regs) :
    (r.finish).psnr = r.psnr := rfl

@[simp] theorem Regs.finish_frameIdx (r : Regs) :
    (r.finish).frameIdx = r.frameIdx := rfl

@[simp] theorem Regs.finish_used (r : Regs) :
    (r.finish).used = r.used := rfl

@[simp] theorem Regs.finish_sum (r : Regs) :
    (r.finish).sum = r.sum := rfl

@[simp] theorem Regs.finish_nans (r : Regs) :
    (r.finish).nans = r.nans := rfl

@[simp] theorem Regs.finish_mean (r : Regs) :
    (r.finish).mean = Series.zip (fun sum nan => meanWord sum r.used nan) r.sum r.nans := rfl

end Sys2Proof.Machine
end

