-- ==== Sys2Proof/Laws/Exec.lean ====
section
/-! SUPPORT. Once for each shared operation: everything it can do. The last lemmas package the case split: a predicate
that every elementary change keeps, every instruction and every step keeps. -/

namespace Sys2Proof.Machine

@[simp] theorem unlessFaulted_of_faulted {s : State} {k : Result} (h : s.regs.phase = .faulted) :
    unlessFaulted s k = .next s := if_pos h

@[simp] theorem unlessFaulted_of_not_faulted {s : State} {k : Result} (h : s.regs.phase ≠ .faulted) :
    unlessFaulted s k = k := if_neg h

@[simp] theorem whenReady_of_faulted {s : State} {word : Word} {k : Result} (h : s.regs.phase = .faulted) :
    whenReady s word k = .next s := if_pos h

@[simp] theorem whenReady_of_ready {s : State} {word : Word} {k : Result} (h : s.regs.phase = .ready) :
    whenReady s word k = k := by
  simp [whenReady, unlessFaulted, h]

theorem whenReady_of_other {s : State} {word : Word} {k : Result} (hf : s.regs.phase ≠ .faulted)
    (hr : s.regs.phase ≠ .ready) : whenReady s word k = raise s .sequence 0#1 word := by
  simp [whenReady, unlessFaulted, hf, hr]

/-- What a fault cause that `raise` is given can be: only `UNSUPPORTED_FORMAT` and `END_OF_STREAM` select (R261). -/
def selectorOk (code : FaultCode) (sel : BitVec 1) : Prop :=
  sel = 1#1 → code = .unsupportedFormat ∨ code = .endOfStream

/-- A command that answers next did nothing in FAULTED, or did its own work. -/
theorem unlessFaulted_next {s t : State} {k : Result} (h : unlessFaulted s k = .next t) :
    (s.regs.phase = .faulted ∧ t = s) ∨ (s.regs.phase ≠ .faulted ∧ k = .next t) := by
  unfold unlessFaulted at h
  split at h
  · rename_i hp
    cases h
    exact .inl ⟨hp, rfl⟩
  · rename_i hp
    exact .inr ⟨hp, h⟩

/-- A command of READY that answers next: ignored, out of sequence, or its own work. -/
theorem whenReady_next {s t : State} {word : Word} {k : Result} (h : whenReady s word k = .next t) :
    (s.regs.phase = .faulted ∧ t = s)
      ∨ (s.regs.phase ≠ .faulted ∧ s.regs.phase ≠ .ready ∧ t = s.enterFault .sequence 0#1 word)
      ∨ (s.regs.phase = .ready ∧ k = .next t) := by
  rcases unlessFaulted_next h with h | ⟨hp, h⟩
  · exact .inl h
  · split at h
    · rename_i hr
      exact .inr (.inr ⟨hr, h⟩)
    · rename_i hr
      cases h
      exact .inr (.inl ⟨hp, hr, rfl⟩)

/-- The checks a successful `INIT` has passed (R130). -/
structure InitPassed (tag : Tag) (s : State) : Prop where
  open_ : s.regs.phase ≠ .faulted
  tagIn : tag.toNat ≤ 6
  tagOut : s.regs.fmtOut.toNat ≤ 6
  width : s.regs.width ≠ 0#16
  height : s.regs.height ≠ 0#16
  size : frameBytes (descClass (rom (romIndex tag))) s.regs.area ≤ s.cfg.fbBytes
  planes : firstEmptyPlane (rom (romIndex tag)) s.regs.area = none

/-- `INIT` always answers next: ignored, a fault, or a session opened after every check passed. -/
theorem initWith_cases (tag : Tag) (s : State) :
    ∃ t, initWith tag s = .next t ∧
      ((s.regs.phase = .faulted ∧ t = s)
        ∨ (s.regs.phase ≠ .faulted ∧ ∃ code sel info, selectorOk code sel ∧ t = s.enterFault code sel info)
        ∨ (InitPassed tag s ∧ t = s.withRegs (s.regs.openSession (rom (romIndex tag)) s.regs.area))) := by
  by_cases hp : s.regs.phase = .faulted
  · exact ⟨s, by simp [initWith, hp], .inl ⟨hp, rfl⟩⟩
  rw [initWith, unlessFaulted_of_not_faulted hp]
  split
  · exact ⟨_, rfl, .inr (.inl ⟨hp, _, _, _, fun h => absurd h (by decide), rfl⟩)⟩
  split
  · exact ⟨_, rfl, .inr (.inl ⟨hp, _, _, _, fun _ => .inl rfl, rfl⟩)⟩
  split
  · exact ⟨_, rfl, .inr (.inl ⟨hp, _, _, _, fun h => absurd h (by decide), rfl⟩)⟩
  rename_i h1 h2 h3
  dsimp only
  split
  · exact ⟨_, rfl, .inr (.inl ⟨hp, _, _, _, fun h => absurd h (by decide), rfl⟩)⟩
  rename_i h4
  split
  · exact ⟨_, rfl, .inr (.inl ⟨hp, _, _, _, fun h => absurd h (by decide), rfl⟩)⟩
  · rename_i h5
    exact ⟨_, rfl, .inr (.inr ⟨⟨hp, by omega, by omega, fun h => h3 (.inl h), fun h => h3 (.inr h), by omega, h5⟩, rfl⟩)⟩

/-- `INIT` past its checks opens the session. -/
theorem initWith_of_passed {tag : Tag} {s : State} (h : InitPassed tag s) :
    initWith tag s = .next (s.withRegs (s.regs.openSession (rom (romIndex tag)) s.regs.area)) := by
  have h1 : ¬ 6 < tag.toNat := Nat.not_lt.mpr h.tagIn
  have h2 : ¬ 6 < s.regs.fmtOut.toNat := Nat.not_lt.mpr h.tagOut
  have h3 : ¬ (s.regs.width = 0#16 ∨ s.regs.height = 0#16) := fun e => e.elim h.width h.height
  have h4 := Nat.not_lt.mpr h.size
  rw [initWith, unlessFaulted_of_not_faulted h.open_, if_neg h1, if_neg h2, if_neg h3]
  simp only [h4, h.planes, if_false]

/-- `EXT` that answers next: ignored, a fault, or an extraction from a layout that fits. -/
theorem execExt_next {side : Side} {s t : State} (h : execExt side s = .next t) :
    (s.regs.phase = .faulted ∧ t = s)
      ∨ (s.regs.phase ≠ .faulted ∧ ∃ code sel info, selectorOk code sel ∧ t = s.enterFault code sel info)
      ∨ (s.regs.phase = .ready ∧ s.regs.frameSize.toNat ≤ (s.regs.lenBytes.get side).toNat ∧ s.layoutFits = true
          ∧ t = s.extract side) := by
  rcases whenReady_next h with h | ⟨hf, _, rfl⟩ | ⟨hr, h⟩
  · exact .inl h
  · exact .inr (.inl ⟨hf, _, _, _, fun h => absurd h (by decide), rfl⟩)
  · split at h
    · cases h
      exact .inr (.inl ⟨by simp [hr], _, _, _, fun _ => .inr rfl, rfl⟩)
    · split at h
      · rename_i hlen hfit
        cases h
        exact .inr (.inr ⟨hr, by omega, hfit, rfl⟩)
      · cases h

/-- `SCORE` that answers next: ignored, a fault, or a frame pair scored. -/
theorem execScore_next {s t : State} (h : execScore s = .next t) :
    (s.regs.phase = .faulted ∧ t = s)
      ∨ (s.regs.phase ≠ .faulted ∧ ∃ code sel info, selectorOk code sel ∧ t = s.enterFault code sel info)
      ∨ (s.regs.phase = .ready ∧ s.regs.pv.a = true ∧ s.regs.pv.b = true ∧ s.regs.frameIdx ≠ 0xFFFFFFFF#32
          ∧ s.lengthsFit = true ∧ t = s.scored) := by
  rcases whenReady_next h with h | ⟨hf, _, rfl⟩ | ⟨hr, h⟩
  · exact .inl h
  · exact .inr (.inl ⟨hf, _, _, _, fun h => absurd h (by decide), rfl⟩)
  · have hf : s.regs.phase ≠ .faulted := by simp [hr]
    split at h
    · cases h
      exact .inr (.inl ⟨hf, _, _, _, fun h => absurd h (by decide), rfl⟩)
    · split at h
      · cases h
        exact .inr (.inl ⟨hf, _, _, _, fun h => absurd h (by decide), rfl⟩)
      · split at h
        · rename_i hpv hidx hfit
          cases h
          simp only [not_or, Bool.not_eq_false] at hpv
          exact .inr (.inr ⟨hr, hpv.1, hpv.2, hidx, hfit, rfl⟩)
        · cases h

/-- `FIN` that answers next: ignored, a fault, or the means of a session with used frames. -/
theorem execFin_next {s t : State} (h : execFin s = .next t) :
    (s.regs.phase = .faulted ∧ t = s)
      ∨ (s.regs.phase ≠ .faulted ∧ ∃ code sel info, selectorOk code sel ∧ t = s.enterFault code sel info)
      ∨ (s.regs.phase = .ready ∧ s.regs.used ≠ 0#32 ∧ t = s.withRegs s.regs.finish) := by
  rcases whenReady_next h with h | ⟨hf, _, rfl⟩ | ⟨hr, h⟩
  · exact .inl h
  · exact .inr (.inl ⟨hf, _, _, _, fun h => absurd h (by decide), rfl⟩)
  · split at h
    · cases h
      exact .inr (.inl ⟨by simp [hr], _, _, _, fun h => absurd h (by decide), rfl⟩)
    · rename_i hu
      cases h
      exact .inr (.inr ⟨hr, hu, rfl⟩)

theorem andThen_next {o : Result} {f : State → Result} {t : State} (h : andThen o f = .next t) :
    ∃ s, o = .next s ∧ f s = .next t := by
  cases o with
  | next s => exact ⟨s, rfl, h⟩
  | fault e => cases h
  | refused e => cases h

/-- `FRAME` that answers next ran its three commands (R232). -/
theorem execFrame_next {s t : State} (h : execFrame s = .next t) :
    ∃ u v, execExt .a s = .next u ∧ execExt .b u = .next v ∧ execScore v = .next t := by
  obtain ⟨v, h1, h2⟩ := andThen_next h
  obtain ⟨u, h3, h4⟩ := andThen_next h1
  exact ⟨u, v, h3, h4, h2⟩

/-- The elementary changes a command can make, each with what is known when it happens. A predicate with these seven
closures is kept by every instruction. -/
structure Kept (P : State → Prop) : Prop where
  fault : ∀ s code sel info, P s → s.regs.phase ≠ .faulted → selectorOk code sel → P (s.enterFault code sel info)
  reset : ∀ s, P s → P s.softReset
  opened : ∀ tag s, P s → InitPassed tag s → P (s.withRegs (s.regs.openSession (rom (romIndex tag)) s.regs.area))
  extracted : ∀ side s, P s → s.regs.phase = .ready → s.layoutFits = true → P (s.extract side)
  scored : ∀ s, P s → s.regs.phase = .ready → s.regs.pv.a = true → s.regs.pv.b = true →
    s.regs.frameIdx ≠ 0xFFFFFFFF#32 → s.lengthsFit = true → P s.scored
  finished : ∀ s, P s → s.regs.phase = .ready → s.regs.used ≠ 0#32 → P (s.withRegs s.regs.finish)

variable {P : State → Prop}

theorem Kept.initWith (hP : Kept P) {tag : Tag} {s t : State} (hs : P s) (h : initWith tag s = .next t) : P t := by
  obtain ⟨u, hu, hc⟩ := initWith_cases tag s
  rw [hu] at h
  cases h
  rcases hc with ⟨_, rfl⟩ | ⟨hp, c, l, i, hl, rfl⟩ | ⟨hpass, rfl⟩
  · exact hs
  · exact hP.fault s c l i hs hp hl
  · exact hP.opened tag s hs hpass

theorem Kept.ext (hP : Kept P) {side : Side} {s t : State} (hs : P s) (h : execExt side s = .next t) : P t := by
  rcases execExt_next h with ⟨_, rfl⟩ | ⟨hp, c, l, i, hl, rfl⟩ | ⟨hr, _, hfit, rfl⟩
  · exact hs
  · exact hP.fault s c l i hs hp hl
  · exact hP.extracted side s hs hr hfit

theorem Kept.score (hP : Kept P) {s t : State} (hs : P s) (h : execScore s = .next t) : P t := by
  rcases execScore_next h with ⟨_, rfl⟩ | ⟨hp, c, l, i, hl, rfl⟩ | ⟨hr, ha, hb, hi, hfit, rfl⟩
  · exact hs
  · exact hP.fault s c l i hs hp hl
  · exact hP.scored s hs hr ha hb hi hfit

theorem Kept.raised (hP : Kept P) {s t : State} {code : FaultCode} {sel : BitVec 1} {info : Word} (hs : P s)
    (hl : selectorOk code sel) (h : unlessFaulted s (raise s code sel info) = .next t) : P t := by
  rcases unlessFaulted_next h with ⟨_, rfl⟩ | ⟨hp, h⟩
  · exact hs
  · cases h
    exact hP.fault s code sel info hs hp hl

/-- A predicate closed under the elementary changes is kept by every instruction. -/
theorem Kept.exec (hP : Kept P) (i : Instr) {s t : State} (hs : P s) (h : exec i s = .next t) : P t := by
  cases i with
  | nop => cases h; exact hs
  | init => exact hP.initWith hs h
  | ext side => exact hP.ext hs h
  | score => exact hP.score hs h
  | fin =>
    rcases execFin_next h with ⟨_, rfl⟩ | ⟨hp, c, l, i, hl, rfl⟩ | ⟨hr, hu, rfl⟩
    · exact hs
    · exact hP.fault s c l i hs hp hl
    · exact hP.finished s hs hr hu
  | srst => cases h; exact hP.reset s hs
  | frame =>
    obtain ⟨u, v, h1, h2, h3⟩ := execFrame_next h
    exact hP.score (hP.ext (hP.ext hs h1) h2) h3
  | illegal w => exact hP.raised hs (fun h => absurd h (by decide)) h
  | yv12 => exact hP.initWith hs h
  | iyuv => exact hP.initWith hs h
  | nv12 => exact hP.initWith hs h
  | uyvy => exact hP.initWith hs h
  | yvyu => exact hP.initWith hs h
  | yuy2 => exact hP.initWith hs h
  | y422 => exact hP.initWith hs h
  | unsupportedTag reg t => exact hP.raised hs (fun _ => .inl rfl) h

/-- What one event at the port can do. -/
theorem perform_next {x : Access} {s t : State} (h : perform x s = .next t) :
    (∃ i, exec i s = .next t)
      ∨ (∃ (i : Fin 64) (v : Word), i ≠ 0 ∧ t = s.withRegs (s.regs.write i v))
      ∨ (∃ v, t = s.answering v)
      ∨ (∃ side a v, a < s.cfg.fbBytes ∧ t = s.writeFb side a v)
      ∨ t = s.hardwareReset := by
  cases x with
  | writeReg i v =>
    simp only [perform, hostWriteReg] at h
    split at h
    · exact .inl ⟨_, h⟩
    · rename_i hi
      cases h
      exact .inr (.inl ⟨i, v, hi, rfl⟩)
  | readReg i => cases h; exact .inr (.inr (.inl ⟨_, rfl⟩))
  | writeFb side a v =>
    simp only [perform] at h
    split at h
    · rename_i ha
      cases h
      exact .inr (.inr (.inr (.inl ⟨side, a, v, ha, rfl⟩)))
    · cases h
  | readFb side a =>
    simp only [perform] at h
    split at h
    · cases h; exact .inr (.inr (.inl ⟨_, rfl⟩))
    · cases h
  | readPl side p k =>
    simp only [perform] at h
    split at h
    · cases h; exact .inr (.inr (.inl ⟨_, rfl⟩))
    · cases h
  | frame => exact .inl ⟨.frame, h⟩
  | hardwareReset => cases h; exact .inr (.inr (.inr (.inr rfl)))

/-- A predicate kept by every instruction, by the host's writes and reads and by hardware reset is kept by every step. -/
theorem Kept.step (hP : Kept P) (hport : ∀ s p, P s → P { s with port := p })
    (hwrite : ∀ s (i : Fin 64) (v : Word), P s → P (s.withRegs (s.regs.write i v)))
    (hanswer : ∀ s v, P s → P (s.answering v))
    (hfb : ∀ s side a v, P s → a < s.cfg.fbBytes → P (s.writeFb side a v))
    (hreset : ∀ s, P s → P s.hardwareReset) {s t : State} (hs : P s) (h : step s = .next t) : P t := by
  unfold Machine.step takeEvent at h
  split at h
  · cases h; exact hs
  · rename_i x rest hx
    have hs' := hport s rest hs
    rcases perform_next h with ⟨i, hi⟩ | ⟨i, v, _, rfl⟩ | ⟨v, rfl⟩ | ⟨side, a, v, ha, rfl⟩ | rfl
    · exact hP.exec i hs' hi
    · exact hwrite _ i v hs'
    · exact hanswer _ v hs'
    · exact hfb _ side a v hs' ha
    · exact hreset _ hs'

end Sys2Proof.Machine
end

