-- ==== Sys2Proof/Laws/Layout.lean ====
section
/-! SUPPORT. The boundaries one by one, and the closed form of each format's ranges (40_descriptor_rom.md R132, R140 to
R146), so that no later proof evaluates a descriptor. -/

namespace Sys2Proof.Machine

@[simp] theorem boundary_zero (cls : Bool) (wh : Nat) : boundary cls wh 0#2 = 0 := by cases cls <;> rfl
@[simp] theorem boundary_one (cls : Bool) (wh : Nat) : boundary cls wh 1#2 = wh := by cases cls <;> rfl
@[simp] theorem boundary_420_two (wh : Nat) : boundary false wh 2#2 = wh * 5 / 4 := rfl
@[simp] theorem boundary_420_three (wh : Nat) : boundary false wh 3#2 = wh * 3 / 2 := rfl
@[simp] theorem boundary_422_two (wh : Nat) : boundary true wh 2#2 = wh * 3 / 2 := rfl
@[simp] theorem boundary_422_three (wh : Nat) : boundary true wh 3#2 = wh * 2 := rfl
@[simp] theorem frameBytes_420 (wh : Nat) : frameBytes false wh = wh * 3 / 2 := rfl
@[simp] theorem frameBytes_422 (wh : Nat) : frameBytes true wh = wh * 2 := rfl

/-- A range is known when its four numbers are. -/
theorem range_eq {start stop stride len : Nat} (h : rangeLen start stop stride = len) :
    (RangeN.mk start stop stride (rangeLen start stop stride)) = ⟨start, stop, stride, len⟩ := by rw [h]

/-- The length of a range of stride 1. -/
theorem rangeLen_one (start stop : Nat) : rangeLen start stop 1 = stop - start := by
  unfold rangeLen ceilDiv
  split <;> omega

/-- The length of a range of stride 2. -/
theorem rangeLen_two (start stop : Nat) : rangeLen start stop 2 = (stop - start + 1) / 2 := by
  unfold rangeLen ceilDiv
  split <;> omega

/-- The length of a range of stride 4. -/
theorem rangeLen_four (start stop : Nat) : rangeLen start stop 4 = (stop - start + 3) / 4 := by
  unfold rangeLen ceilDiv
  split <;> omega

/-- The seven supported tags. -/
theorem tag_cases : ∀ t : Tag, t.toNat ≤ 6 → t = 0#8 ∨ t = 1#8 ∨ t = 2#8 ∨ t = 3#8 ∨ t = 4#8 ∨ t = 5#8 ∨ t = 6#8 := by
  decide

/-! ### Each format's ranges -/

theorem yv12_y (wh : Nat) : descRange (rom 0#3) wh .y = ⟨0, wh, 1, wh⟩ :=
  range_eq ((rangeLen_one 0 wh).trans (by omega))
theorem yv12_cb (wh : Nat) : descRange (rom 0#3) wh .cb = ⟨wh * 5 / 4, wh * 3 / 2, 1, wh * 3 / 2 - wh * 5 / 4⟩ :=
  range_eq (rangeLen_one (wh * 5 / 4) (wh * 3 / 2))
theorem yv12_cr (wh : Nat) : descRange (rom 0#3) wh .cr = ⟨wh, wh * 5 / 4, 1, wh / 4⟩ :=
  range_eq ((rangeLen_one wh (wh * 5 / 4)).trans (by omega))

theorem iyuv_y (wh : Nat) : descRange (rom 1#3) wh .y = ⟨0, wh, 1, wh⟩ :=
  range_eq ((rangeLen_one 0 wh).trans (by omega))
theorem iyuv_cb (wh : Nat) : descRange (rom 1#3) wh .cb = ⟨wh, wh * 5 / 4, 1, wh / 4⟩ :=
  range_eq ((rangeLen_one wh (wh * 5 / 4)).trans (by omega))
theorem iyuv_cr (wh : Nat) : descRange (rom 1#3) wh .cr = ⟨wh * 5 / 4, wh * 3 / 2, 1, wh * 3 / 2 - wh * 5 / 4⟩ :=
  range_eq (rangeLen_one (wh * 5 / 4) (wh * 3 / 2))

theorem nv12_y (wh : Nat) : descRange (rom 2#3) wh .y = ⟨0, wh, 1, wh⟩ :=
  range_eq ((rangeLen_one 0 wh).trans (by omega))
theorem nv12_cb (wh : Nat) : descRange (rom 2#3) wh .cb = ⟨wh, wh * 3 / 2, 2, (wh / 2 + 1) / 2⟩ :=
  range_eq ((rangeLen_two wh (wh * 3 / 2)).trans (by omega))
theorem nv12_cr (wh : Nat) : descRange (rom 2#3) wh .cr = ⟨wh + 1, wh * 3 / 2, 2, wh / 4⟩ :=
  range_eq ((rangeLen_two (wh + 1) (wh * 3 / 2)).trans (by omega))

theorem uyvy_y (wh : Nat) : descRange (rom 3#3) wh .y = ⟨1, wh * 2, 2, wh⟩ :=
  range_eq ((rangeLen_two 1 (wh * 2)).trans (by omega))
theorem uyvy_cb (wh : Nat) : descRange (rom 3#3) wh .cb = ⟨0, wh * 2, 4, (wh + 1) / 2⟩ :=
  range_eq ((rangeLen_four 0 (wh * 2)).trans (by omega))
theorem uyvy_cr (wh : Nat) : descRange (rom 3#3) wh .cr = ⟨2, wh * 2, 4, wh / 2⟩ :=
  range_eq ((rangeLen_four 2 (wh * 2)).trans (by omega))

theorem yvyu_y (wh : Nat) : descRange (rom 4#3) wh .y = ⟨0, wh * 2, 2, wh⟩ :=
  range_eq ((rangeLen_two 0 (wh * 2)).trans (by omega))
theorem yvyu_cb (wh : Nat) : descRange (rom 4#3) wh .cb = ⟨3, wh * 2, 4, wh / 2⟩ :=
  range_eq ((rangeLen_four 3 (wh * 2)).trans (by omega))
theorem yvyu_cr (wh : Nat) : descRange (rom 4#3) wh .cr = ⟨1, wh * 2, 4, (wh + 1) / 2⟩ :=
  range_eq ((rangeLen_four 1 (wh * 2)).trans (by omega))

theorem yuy2_y (wh : Nat) : descRange (rom 5#3) wh .y = ⟨0, wh * 2, 2, wh⟩ :=
  range_eq ((rangeLen_two 0 (wh * 2)).trans (by omega))
theorem yuy2_cb (wh : Nat) : descRange (rom 5#3) wh .cb = ⟨1, wh * 2, 4, (wh + 1) / 2⟩ :=
  range_eq ((rangeLen_four 1 (wh * 2)).trans (by omega))
theorem yuy2_cr (wh : Nat) : descRange (rom 5#3) wh .cr = ⟨3, wh * 2, 4, wh / 2⟩ :=
  range_eq ((rangeLen_four 3 (wh * 2)).trans (by omega))

theorem y422_y (wh : Nat) : descRange (rom 6#3) wh .y = ⟨0, wh, 1, wh⟩ :=
  range_eq ((rangeLen_one 0 wh).trans (by omega))
theorem y422_cb (wh : Nat) : descRange (rom 6#3) wh .cb = ⟨wh, wh * 3 / 2, 1, wh / 2⟩ :=
  range_eq ((rangeLen_one wh (wh * 3 / 2)).trans (by omega))
theorem y422_cr (wh : Nat) : descRange (rom 6#3) wh .cr = ⟨wh * 3 / 2, wh * 2, 1, (wh + 1) / 2⟩ :=
  range_eq ((rangeLen_one (wh * 3 / 2) (wh * 2)).trans (by omega))

end Sys2Proof.Machine
end

