-- ==== Sys2Proof/Laws/Metric.lean ====
section
/-! SUPPORT. What the metric's operations compute, in Mathlib's words. -/

namespace Sys2Proof.Machine

/-- `sumBelow` is the finite sum. -/
theorem sumBelow_eq_sum (f : Nat → Nat) (n : Nat) : sumBelow f n = ∑ k ∈ Finset.range n, f k := by
  induction n with
  | zero => rfl
  | succ n ih => rw [Finset.sum_range_succ, ← ih]; rfl

/-- A squared error over the integers (R194). -/
theorem squaredError_cast (a b : Sample) : (squaredError a b : Int) = (a.toInt - b.toInt) ^ 2 := by
  simp [squaredError]

/-- A squared error is 0 exactly for equal samples. -/
theorem squaredError_eq_zero {a b : Sample} : squaredError a b = 0 ↔ a = b := by
  simp [squaredError, sub_eq_zero, BitVec.toInt_inj]

/-- A squared error is the same from both sides (R194). -/
theorem squaredError_comm (a b : Sample) : squaredError a b = squaredError b a := by
  unfold squaredError
  congr 1
  omega

/-- A byte-valued sample is its own unsigned value. -/
theorem toInt_of_byte {x : Sample} (h : x.toNat ≤ 255) : x.toInt = x.toNat := by
  rw [BitVec.toInt_eq_toNat_cond]
  split <;> omega

/-- A squared error of byte-valued samples is at most `PEAK^2` (R194). -/
theorem squaredError_le {a b : Sample} (ha : a.toNat ≤ 255) (hb : b.toNat ≤ 255) : squaredError a b ≤ 65025 := by
  unfold squaredError
  rw [toInt_of_byte ha, toInt_of_byte hb]
  have h : ((a.toNat : Int) - b.toNat).natAbs ≤ 255 := by omega
  exact (Nat.pow_le_pow_left h 2).trans (by norm_num)

/-- `psnrQ` against an exponent, inside its domain (R197). -/
theorem le_psnrQ_iff {sse n q : Nat} (h1 : 1 ≤ sse) (h : sse ≤ 65025 * n) :
    q ≤ psnrQ sse n ↔ 10 ^ q * sse ^ 2560 ≤ (65025 * n) ^ 2560 := by
  have hp : 0 < sse ^ 2560 := Nat.pow_pos h1
  have hd := Nat.div_pos (Nat.pow_le_pow_left h 2560) hp
  unfold psnrQ
  rw [Nat.le_log_iff_pow_le (by norm_num) hd.ne', Nat.le_div_iff_mul_le hp]

/-- A PSNR word that is not the sentinel holds its `Q` and nothing above it (R45). -/
theorem qField_of_le {v : Word} (h : v.toNat ≤ 36981) : (qField v).toNat = v.toNat := by
  simp only [qField, BitVec.extractLsb'_toNat, Nat.shiftRight_zero]
  omega

end Sys2Proof.Machine
end

