-- ==== Sys2Proof/Laws/Registers.lean ====
section
/-! SUPPORT. The words that the host reads where a register is held in parts (10_state.md R23, R25, R38, R73): each part of
the word, so that no later proof unfolds a concatenation. -/

namespace Sys2Proof.Machine

/-- The low part of a concatenation. -/
theorem extractLsb'_append_low {m n : Nat} (x : BitVec m) (p : BitVec n) : (x ++ p).extractLsb' 0 n = p :=
  BitVec.eq_of_getLsbD_eq fun i hi => by simp [BitVec.getLsbD_append, hi]

/-- The phase is in bits 1:0 of `STATUS` (R23). -/
@[simp] theorem statusWord_phase (r : Regs) : r.statusWord.extractLsb' 0 2 = phaseCode r.phase :=
  extractLsb'_append_low (m := 30) _ _

/-- The flags are in bits 5:2 of `STATUS`, and nothing stands above them (R23). -/
theorem statusWord_flags (r : Regs) :
    r.statusWord.getLsbD 2 = r.pv.a ∧ r.statusWord.getLsbD 3 = r.pv.b ∧ r.statusWord.getLsbD 4 = r.skipped ∧
      r.statusWord.getLsbD 5 = r.warn16 ∧ r.statusWord >>> 6 = 0#32 := by
  unfold Regs.statusWord
  generalize r.phase = p, r.pv.a = a, r.pv.b = b, r.skipped = c, r.warn16 = d
  revert p a b c d
  rintro (_ | _ | _ | _) (_ | _) (_ | _) (_ | _) (_ | _) <;> decide

/-- `CODE` is in bits 7:0 of `CAUSE`, `SEL` in bit 8, and nothing stands above (R25). -/
theorem causeWord_fields (r : Regs) :
    r.causeWord.extractLsb' 0 8 = r.causeCode ∧ r.causeWord.extractLsb' 8 1 = r.causeSel ∧ r.causeWord >>> 9 = 0#32 := by
  refine ⟨extractLsb'_append_low (m := 24) _ _, ?_⟩
  unfold Regs.causeWord
  generalize r.causeCode = code, r.causeSel = sel
  revert code sel
  decide +kernel

/-- The four sentinel bits are bits 3:0 of `NANS`, and nothing stands above (R38). -/
theorem nansWord_bits (r : Regs) :
    r.nansWord.getLsbD 0 = r.nans.y ∧ r.nansWord.getLsbD 1 = r.nans.cb ∧ r.nansWord.getLsbD 2 = r.nans.cr ∧
      r.nansWord.getLsbD 3 = r.nans.c ∧ r.nansWord >>> 4 = 0#32 := by
  unfold Regs.nansWord
  generalize r.nans.y = a, r.nans.cb = b, r.nans.cr = c, r.nans.c = d
  revert a b c d
  decide

/-- The two words of a 48-bit quantity, put together (R73). -/
theorem hiWord_loWord (x : Sum48) : (hiWord x).toNat * 2 ^ 32 + (loWord x).toNat = x.toNat := by
  have := x.isLt
  simp only [hiWord, loWord, BitVec.toNat_setWidth, BitVec.extractLsb'_toNat, Nat.shiftRight_eq_div_pow]
  omega

end Sys2Proof.Machine
end

