-- ==== Sys2Proof/Laws/Program.lean ====
section
/-! SUPPORT. What a host program does against the block: one lemma for each of its building blocks, so that a proof about a
run of the canonical program never unfolds `runHost`, `step` or `perform`. -/

namespace Sys2Proof.Machine

/-! ### One access -/

/-- An access put in front of the port is the one the next step performs. -/
theorem step_put (x : Access) (s : State) : step { s with port := x :: s.port } = perform x s := rfl

@[simp] theorem runHost_stop (report : Report) (s : State) : runHost (.stop report) s = .next (s, report) := rfl

/-- An access that goes on: the host goes on by what it has read. -/
theorem runHost_access {x : Access} {next : Option CellValue → HostProgram} {s t : State} (h : perform x s = .next t) :
    runHost (.access x next) s = runHost (next t.answer) t := by
  rw [runHost, step_put, h]

@[simp] theorem runHost_readRegister (i : Fin 64) (k : Word → HostProgram) (s : State) :
    runHost (readRegister i k) s = runHost (k (s.regs.read i)) (s.answering (.reg (s.regs.read i))) := rfl

/-! ### Lists of accesses -/

@[simp] theorem issue_nil (k : HostProgram) : issue [] k = k := rfl

theorem issue_append (xs ys : List Access) (k : HostProgram) : issue (xs ++ ys) k = issue xs (issue ys k) := by
  induction xs with
  | nil => rfl
  | cons x xs ih => simp only [List.cons_append, issue, ih]

theorem runHost_issue_cons {x : Access} {xs : List Access} {k : HostProgram} {s t : State} (h : perform x s = .next t) :
    runHost (issue (x :: xs) k) s = runHost (issue xs k) t := runHost_access h

/-- `LOAD` (R72, R112): the bytes are placed at rising addresses, and nothing else changes. -/
theorem runHost_loadFrom (side : Side) (k : HostProgram) : ∀ (bytes : List Byte) (addr : Nat) (s : State),
    addr + bytes.length ≤ s.cfg.fbBytes →
    ∃ t, runHost (issue (loadFrom side addr bytes) k) s = runHost k t ∧ t.regs = s.regs ∧ t.pl = s.pl ∧ t.cfg = s.cfg ∧
      t.powerOns = s.powerOns ∧ t.port = s.port ∧ t.answer = s.answer ∧
      (∀ j (h : j < bytes.length), t.readFb side (addr + j) = bytes[j]) ∧
      ∀ other c, ¬ (other = side ∧ addr ≤ c ∧ c < addr + bytes.length) → t.readFb other c = s.readFb other c
  | [], addr, s, _ =>
    ⟨s, rfl, rfl, rfl, rfl, rfl, rfl, rfl, fun _ h => absurd h (Nat.not_lt_zero _), fun _ _ _ => rfl⟩
  | b :: bytes, addr, s, h => by
    simp only [List.length_cons] at h
    have hb : perform (.writeFb side addr b) s = .next (s.writeFb side addr b) := if_pos (by omega)
    obtain ⟨t, hrun, hregs, hpl, hcfg, hpow, hport, hans, hin, hout⟩ :=
      runHost_loadFrom side k bytes (addr + 1) (s.writeFb side addr b) (by simp only [State.writeFb_cfg]; omega)
    refine ⟨t, (runHost_issue_cons hb).trans hrun, hregs, hpl, hcfg, hpow, hport, hans, ?_, ?_⟩
    · intro j hj
      cases j with
      | zero => rw [Nat.add_zero, hout side addr (by omega), readFb_writeFb]; simp
      | succ j =>
        rw [show addr + (j + 1) = addr + 1 + j by omega, hin j (by simpa using hj)]
        rfl
    · intro other c hc
      simp only [List.length_cons] at hc
      rw [hout other c fun h => hc ⟨h.1, by omega, by omega⟩, readFb_writeFb,
        if_neg fun h => hc ⟨h.1, by omega, by omega⟩]

/-- Step 4 of R241 up to its `FRAME` line: both frames stand in their buffers with their lengths declared (R244), and no
other register and no plane has changed. -/
theorem runHost_framePair (a b : List Byte) (k : HostProgram) (s : State) (ha : a.length ≤ s.cfg.fbBytes)
    (hb : b.length ≤ s.cfg.fbBytes) :
    ∃ t, runHost (issue (framePair a b) k) s = runHost (issue [.frame] k) t ∧
      t.regs = { s.regs with lenBytes := ⟨BitVec.ofNat 32 a.length, BitVec.ofNat 32 b.length⟩ } ∧ t.pl = s.pl ∧
      t.cfg = s.cfg ∧ t.port = s.port ∧
      (∀ j (h : j < a.length), t.readFb .a j = a[j]) ∧ ∀ j (h : j < b.length), t.readFb .b j = b[j] := by
  have hw (side : Side) (v : Word) (u : State) : perform (.writeReg (lenIndex side) v) u =
      .next (u.withRegs { u.regs with lenBytes := u.regs.lenBytes.set side v }) := by cases side <;> rfl
  simp only [framePair, loadFrame, load, issue_append]
  obtain ⟨u, hu, hur, hup, huc, -, hupo, -, hua, -⟩ := runHost_loadFrom .a
    (issue [.writeReg (lenIndex .a) (BitVec.ofNat 32 a.length)] (issue (loadFrom .b 0 b)
      (issue [.writeReg (lenIndex .b) (BitVec.ofNat 32 b.length)] (issue [.frame] k)))) a 0 s (by omega)
  obtain ⟨v, hv, hvr, hvp, hvc, -, hvpo, -, hvb, hva⟩ := runHost_loadFrom .b
    (issue [.writeReg (lenIndex .b) (BitVec.ofNat 32 b.length)] (issue [.frame] k)) b 0
    (u.withRegs { u.regs with lenBytes := u.regs.lenBytes.set .a (BitVec.ofNat 32 a.length) }) (by simpa [huc] using hb)
  refine ⟨v.withRegs { v.regs with lenBytes := v.regs.lenBytes.set .b (BitVec.ofNat 32 b.length) }, ?_, ?_, ?_, ?_, ?_, ?_, ?_⟩
  · rw [hu, runHost_issue_cons (hw ..), issue_nil, hv, runHost_issue_cons (hw ..), issue_nil]
  · simp [hvr, hur, Sides.set]
  · simp [hvp, hup]
  · simp [hvc, huc]
  · simp [hvpo, hupo]
  · intro j hj
    exact (hva .a j (by simp)).trans (show u.readFb .a j = _ by simpa using hua j hj)
  · intro j hj
    exact show v.readFb .b j = _ by simpa using hvb j hj

/-- The beginning of R241: `SRST`, the configuration, `INIT`, which finds every register 0 but the four it has been given
(R26, R27: at the bits they hold). -/
theorem runHost_configure (w h : Nat) (fmtIn fmtOut : Tag) (k : HostProgram) {s t : State}
    (hinit : exec .init (s.withRegs { Regs.zero with
      width := BitVec.ofNat 16 w, height := BitVec.ofNat 16 h, fmtIn := fmtIn, fmtOut := fmtOut }) = .next t) :
    runHost (issue ([command srstWord] ++ configure w h fmtIn fmtOut ++ [command initWord]) k) s = runHost k t := by
  have low (n : Nat) : (BitVec.ofNat 32 n).extractLsb' 0 16 = BitVec.ofNat 16 n := BitVec.eq_of_toNat_eq (by simp)
  have tag (f : Tag) : (f.setWidth 32).extractLsb' 0 8 = f :=
    BitVec.eq_of_toNat_eq (by simpa using Nat.mod_eq_of_lt f.isLt)
  have hwidth (u : State) : perform (.writeReg 4 (BitVec.ofNat 32 w)) u =
      .next (u.withRegs { u.regs with width := BitVec.ofNat 16 w }) := by rw [← low]; rfl
  have hheight (u : State) : perform (.writeReg 5 (BitVec.ofNat 32 h)) u =
      .next (u.withRegs { u.regs with height := BitVec.ofNat 16 h }) := by rw [← low]; rfl
  have hin (u : State) : perform (.writeReg 6 (fmtIn.setWidth 32)) u = .next (u.withRegs { u.regs with fmtIn := fmtIn }) :=
    congrArg (fun f => Host.Outcome.next (u.withRegs { u.regs with fmtIn := f })) (tag fmtIn)
  have hout (u : State) : perform (.writeReg 7 (fmtOut.setWidth 32)) u =
      .next (u.withRegs { u.regs with fmtOut := fmtOut }) :=
    congrArg (fun f => Host.Outcome.next (u.withRegs { u.regs with fmtOut := f })) (tag fmtOut)
  have hreset : perform (command srstWord) s = .next s.softReset := rfl
  simp only [configure, List.cons_append, List.nil_append]
  rw [runHost_issue_cons hreset, runHost_issue_cons (hwidth _), runHost_issue_cons (hheight _), runHost_issue_cons (hin _),
    runHost_issue_cons (hout _)]
  exact runHost_issue_cons (x := command initWord) hinit

/-! ### What the host decides by -/

/-- The phase is in bits 1:0 of `STATUS` (R23). -/
@[simp] theorem phaseField_statusWord (r : Regs) : phaseField r.statusWord = phaseCode r.phase := statusWord_phase r

/-- The report of a fault is `CAUSE` and `FINFO`. -/
@[simp] theorem runHost_reportFault (s : State) :
    runHost reportFault s = .next (s.answering (.reg s.regs.finfo), .failure s.regs.causeWord s.regs.finfo) := rfl

/-- The report of a result is the four means. -/
@[simp] theorem runHost_reportMeans (s : State) :
    runHost reportMeans s = .next (s.answering (.reg s.regs.mean.c), .result s.regs.mean) := rfl

/-- The poll of `STATUS` outside FAULTED: the host goes on. -/
theorem runHost_unlessFaultSeen_of_not_faulted {s : State} (k : HostProgram) (h : s.regs.phase ≠ .faulted) :
    runHost (unlessFaultSeen k) s = runHost k (s.answering (.reg s.regs.statusWord)) := by
  have hp : phaseField s.regs.statusWord ≠ 3#2 := by
    rw [phaseField_statusWord]
    cases hs : s.regs.phase <;> simp_all [phaseCode]
  rw [unlessFaultSeen, runHost_readRegister]
  exact congrArg (runHost · _) (if_neg hp)

/-- The poll of `STATUS` in FAULTED: the host stops and reports. -/
theorem runHost_unlessFaultSeen_of_faulted {s : State} (k : HostProgram) (h : s.regs.phase = .faulted) :
    ∃ t, runHost (unlessFaultSeen k) s = .next (t, .failure s.regs.causeWord s.regs.finfo) ∧ t.regs = s.regs := by
  have hp : phaseField s.regs.statusWord = 3#2 := by rw [phaseField_statusWord, h]; rfl
  refine ⟨s.answering (.reg s.regs.finfo), ?_, rfl⟩
  rw [unlessFaultSeen, runHost_readRegister]
  exact (congrArg (runHost · _) (if_pos hp)).trans rfl

/-- The end of a session by what `FIN` answers (R241, R202, R204). -/
theorem runHost_finishSession {s t : State} (h : exec .fin s = .next t) :
    (t.regs.phase = .done → ∃ u, runHost finishSession s = .next (u, .result t.regs.mean) ∧ u.regs = t.regs) ∧
    (t.regs.phase ≠ .done →
      ∃ u, runHost finishSession s = .next (u, .failure t.regs.causeWord t.regs.finfo) ∧ u.regs = t.regs) := by
  have hr : runHost finishSession s = runHost (if phaseField t.regs.statusWord = 2#2 then reportMeans else reportFault)
      (t.answering (.reg t.regs.statusWord)) := runHost_issue_cons (x := command finWord) h
  rw [hr, phaseField_statusWord]
  constructor
  · intro hp
    rw [hp, if_pos (by decide)]
    exact ⟨_, rfl, rfl⟩
  · intro hp
    rw [if_neg (by cases hq : t.regs.phase <;> simp_all [phaseCode])]
    exact ⟨_, rfl, rfl⟩

end Sys2Proof.Machine
end

