-- ==== Sys2Proof/Tests/Slice0.lean ====
section
/-! SUPPORT. Tests of one step or one decoding each, with the expected result from spec/ (named in the docstring), and one
witness for every statement that has hypotheses. -/

namespace Sys2Proof.Tests

open Sys2Proof Sys2Proof.Machine

/-! ### WellFormed: an ill-formed term for each check -/

/-- R105: a legal word is no illegal word. -/
theorem test_wf_refuses_illegal_with_a_legal_word : (Instr.illegal 0x102#32).wf = false := by decide

/-- R107: tag 6 is supported. -/
theorem test_wf_refuses_unsupported_with_a_supported_tag : (Instr.unsupportedTag .output 6#8).wf = false := by decide

/-! ### Decoding: a word written out from the encoding for every constructor (R101, R103, R105, R106, R107, R113) -/

theorem test_decode_nop : decode (.cmd32 0x00000000#32) = .ok .nop := by decide
theorem test_decode_init : decode (.cmd32 0x00000001#32) = .ok .init := by decide
theorem test_decode_ext_a : decode (.cmd32 0x00000002#32) = .ok (.ext .a) := by decide
theorem test_decode_ext_b : decode (.cmd32 0x00000102#32) = .ok (.ext .b) := by decide
theorem test_decode_score : decode (.cmd32 0x00000003#32) = .ok .score := by decide
theorem test_decode_fin : decode (.cmd32 0x00000004#32) = .ok .fin := by decide
theorem test_decode_srst : decode (.cmd32 0x0000000F#32) = .ok .srst := by decide
theorem test_decode_frame :
    decode (.expansion [0x00000002#32, 0x00000102#32, 0x00000003#32]) = .ok .frame := by decide
theorem test_decode_illegal_op : decode (.cmd32 0x00000005#32) = .ok (.illegal 0x00000005#32) := by decide
theorem test_decode_illegal_side : decode (.cmd32 0x00000101#32) = .ok (.illegal 0x00000101#32) := by decide
theorem test_decode_illegal_zero : decode (.cmd32 0x00000202#32) = .ok (.illegal 0x00000202#32) := by decide
theorem test_decode_yv12 : decode (.tag8 .input 0#8) = .ok .yv12 := by decide
theorem test_decode_iyuv : decode (.tag8 .input 1#8) = .ok .iyuv := by decide
theorem test_decode_nv12 : decode (.tag8 .input 2#8) = .ok .nv12 := by decide
theorem test_decode_uyvy : decode (.tag8 .input 3#8) = .ok .uyvy := by decide
theorem test_decode_yvyu : decode (.tag8 .input 4#8) = .ok .yvyu := by decide
theorem test_decode_yuy2 : decode (.tag8 .output 5#8) = .ok .yuy2 := by decide
theorem test_decode_y422 : decode (.tag8 .input 6#8) = .ok .y422 := by decide
theorem test_decode_unsupported : decode (.tag8 .output 7#8) = .ok (.unsupportedTag .output 7#8) := by decide
theorem test_decode_rejects_by_name : decode (.expansion [0x00000002#32]) = .error .notAPseudoCommand := by rfl

/-- The opcode table's numbering: a tag in 8 bits, a command in 32, the expansion of `FRAME` in 96. -/
theorem test_table_words :
    decodeTableWord 8 3 = some .uyvy ∧ decodeTableWord 32 0x102 = some (.ext .b) ∧
      decodeTableWord 96 0x000000030000010200000002 = some .frame ∧ decodeTableWord 16 0 = none := by
  refine ⟨?_, ?_, ?_, ?_⟩ <;> decide +kernel

/-! ### Small states -/

/-- A block with the given configuration written and nothing else (R303 step 2). -/
def configured (w h : Nat) (tag : Tag) : State :=
  State.reset.withRegs { Regs.zero with width := BitVec.ofNat 16 w, height := BitVec.ofNat 16 h, fmtIn := tag, fmtOut := tag }

/-- The memory that holds `vs` from address 0. -/
def bytesAt {n : Nat} (vs : List (BitVec n)) : Memory n := vs.zipIdx.map fun v => (v.2, v.1)

/-- An open `IYUV` session at `2 x 2` (`FRAME_SIZE = 6`), with `a` and `b` in the frame buffers and `LEN_A = LEN_B = 6`. -/
def loaded (a b : List Byte) : State :=
  let s := configured 2 2 1#8
  let t := s.withRegs (s.regs.openSession (rom 1#3) 4)
  { t with regs := { t.regs with lenBytes := ⟨6#32, 6#32⟩ }, fb := ⟨bytesAt a, bytesAt b⟩ }

/-- The same session with both sides extracted. -/
def extracted (a b : List Byte) : State :=
  let planes := fun (f : List Byte) => Planes.mk (bytesAt ((f.take 4).map (BitVec.setWidth 16)))
    (bytesAt (((f.drop 4).take 1).map (BitVec.setWidth 16))) (bytesAt ((f.drop 5).map (BitVec.setWidth 16)))
  let s := loaded a b
  { s with regs := { s.regs with pv := ⟨true, true⟩ }, pl := ⟨planes a, planes b⟩ }

/-- A frame, the frame with 1 added to every byte, and a frame whose luma is all zero. -/
def frameA : List Byte := [0#8, 1#8, 2#8, 254#8, 4#8, 5#8]
def frameB : List Byte := [1#8, 2#8, 3#8, 255#8, 5#8, 6#8]
def darkFrame : List Byte := [0#8, 0#8, 0#8, 0#8, 9#8, 9#8]

/-- The session after one used frame pair with MSE 1 (R190: four words 12321) and a second of 13862 in luma. -/
def twoUsed : State :=
  let s := loaded frameA frameB
  { s with regs := { s.regs with
    frameIdx := 3#32, used := 2#32, sum := ⟨26183#48, 24642#48, 24642#48, 24642#48⟩, nans := ⟨false, true, false, true⟩ } }

/-- A faulted block. -/
def faulted : State := (configured 2 2 0xFF#8).enterFault .unsupportedFormat 0#1 0xFF#32

/-- What a step answers, seen through `f`. -/
def after {α : Type} (r : Result) (f : State → α) : Option α :=
  match r with
  | .next s => some (f s)
  | .fault _ => none
  | .refused _ => none

/-! ### One step of each instruction -/

/-- R230: `NOP` ends in the state it found. -/
theorem test_nop : step (State.reset.withFetchWord 32 0x0) = .next State.reset := by rfl

/-- R130, the worked example: `IYUV`, `16 x 16`. -/
theorem test_init_worked_example :
    after (exec .init (configured 16 16 1#8)) (fun s => (s.regs.desc, s.regs.frameSize, s.regs.layout, s.regs.statusWord)) =
      some (0x80322110#32, 384#32, ⟨⟨0#32, 256#32, 1#3, 256#32⟩, ⟨256#32, 320#32, 1#3, 64#32⟩,
        ⟨320#32, 384#32, 1#3, 64#32⟩⟩, 1#32) := by decide +kernel

/-- R301: an unconfigured `INIT` reports `BAD_RESOLUTION`. -/
theorem test_init_unconfigured :
    after (step (State.reset.withFetchWord 32 0x1)) (fun s => (s.regs.statusWord, s.regs.causeWord)) =
      some (3#32, 4#32) := by decide +kernel

/-- R170: `EXT A` copies by the ranges and sets `PV_A`. -/
theorem test_ext_copies :
    after (exec (.ext .a) (loaded frameA frameB)) (fun s => (s.pl.a, s.regs.statusWord)) =
      some ((extracted frameA frameB).pl.a, 0x25#32) := by decide +kernel

/-- R174: a frame one byte short reports the side in `SEL`. -/
theorem test_ext_short :
    after (exec (.ext .b) { loaded frameA frameB with regs := { (loaded frameA frameB).regs with lenBytes := ⟨6#32, 5#32⟩ } })
      (fun s => s.regs.causeWord) = some 0x102#32 := by decide +kernel

/-- R190, the worked example's numbers: every difference is -1, so every word is 12321. -/
theorem test_score_uniform :
    after (exec .score (extracted frameA frameB)) (fun s => (s.regs.sse, s.regs.psnr, s.regs.sum.y, s.regs.used)) =
      some (⟨4#48, 1#48, 1#48⟩, ⟨12321#32, 12321#32, 12321#32, 12321#32⟩, 12321#48, 1#32) := by decide +kernel

/-- R193: luma of side B all zero is skipped, whatever its chroma. -/
theorem test_score_skips :
    after (exec .score (extracted frameA darkFrame)) (fun s => (s.regs.statusWord, s.regs.frameIdx, s.regs.used)) =
      some (0x31#32, 1#32, 0#32) := by decide +kernel

/-- R202, the worked example: `26183 // 2 = 13091`; R203: a series with the sentinel has the sentinel as its mean. -/
theorem test_fin_means :
    after (exec .fin twoUsed) (fun s => (s.regs.mean, s.regs.phase)) =
      some (⟨0x3323#32, nanWord, 12321#32, nanWord⟩, .done) := by decide +kernel

/-- R204: `FIN` without a used frame reports `NO_DATA`. -/
theorem test_fin_no_data :
    after (exec .fin (loaded frameA frameB)) (fun s => (s.regs.causeWord, s.regs.finfo)) = some (3#32, 0#32) := by
  decide +kernel

/-- R231, the example: `SRST` leaves FAULTED and clears the record. -/
theorem test_srst : after (exec .srst faulted) (fun s => s.regs) = some Regs.zero := by decide +kernel

/-- R232: `FRAME` advances `FRAME_IDX` by one and scores. -/
theorem test_frame :
    after (exec .frame (loaded frameA frameB)) (fun s => (s.regs.frameIdx, s.regs.psnr.c, s.regs.pv)) =
      some (1#32, 12321#32, ⟨false, false⟩) := by decide +kernel

/-- R232: a short frame on both sides reports side A. -/
theorem test_frame_short :
    after (exec .frame { loaded frameA frameB with regs := { (loaded frameA frameB).regs with lenBytes := ⟨0#32, 0#32⟩ } })
      (fun s => s.regs.causeWord) = some 2#32 := by decide +kernel

/-- R105: an illegal word is reported in `FINFO`. -/
theorem test_illegal :
    after (step (State.reset.withFetchWord 32 0x101)) (fun s => (s.regs.causeWord, s.regs.finfo)) =
      some (6#32, 0x101#32) := by decide +kernel

/-- R38: `NCB` and `NC` are bits 1 and 3. -/
theorem test_nans_word : twoUsed.regs.read 52 = 0b1010#32 := by decide +kernel

/-- R241: the host that finds FAULTED in `STATUS` reports `CAUSE` and `FINFO`. -/
theorem test_host_reports_the_fault :
    runHost (unlessFaultSeen finishSession) faulted =
      .next (faulted.answering (.reg 0xFF#32), .failure 1#32 0xFF#32) := by rfl

/-- R140 to R146, the examples at `4 x 2`: the frame size and the Cb and Cr ranges. -/
def chroma (s : State) : Word × PlaneRange × PlaneRange := (s.regs.frameSize, s.regs.layout.cb, s.regs.layout.cr)

theorem test_yv12 : after (exec .yv12 (configured 4 2 0#8)) chroma =
    some (12#32, ⟨10#32, 12#32, 1#3, 2#32⟩, ⟨8#32, 10#32, 1#3, 2#32⟩) := by decide +kernel
theorem test_iyuv : after (exec .iyuv (configured 4 2 0#8)) chroma =
    some (12#32, ⟨8#32, 10#32, 1#3, 2#32⟩, ⟨10#32, 12#32, 1#3, 2#32⟩) := by decide +kernel
theorem test_nv12 : after (exec .nv12 (configured 4 2 0#8)) chroma =
    some (12#32, ⟨8#32, 12#32, 2#3, 2#32⟩, ⟨9#32, 12#32, 2#3, 2#32⟩) := by decide +kernel
theorem test_uyvy : after (exec .uyvy (configured 4 2 0#8)) (fun s => (s.regs.layout.y, chroma s)) =
    some (⟨1#32, 16#32, 2#3, 8#32⟩, 16#32, ⟨0#32, 16#32, 4#3, 4#32⟩, ⟨2#32, 16#32, 4#3, 4#32⟩) := by decide +kernel
theorem test_yvyu : after (exec .yvyu (configured 4 2 0#8)) chroma =
    some (16#32, ⟨3#32, 16#32, 4#3, 4#32⟩, ⟨1#32, 16#32, 4#3, 4#32⟩) := by decide +kernel
theorem test_yuy2 : after (exec .yuy2 (configured 4 2 0#8)) chroma =
    some (16#32, ⟨1#32, 16#32, 4#3, 4#32⟩, ⟨3#32, 16#32, 4#3, 4#32⟩) := by decide +kernel
theorem test_y422 : after (exec .y422 (configured 4 2 0#8)) chroma =
    some (16#32, ⟨8#32, 12#32, 1#3, 4#32⟩, ⟨12#32, 16#32, 1#3, 4#32⟩) := by decide +kernel

/-- R131: a tag of `FMT_OUT` is reported with `SEL = 1`. -/
theorem test_unsupported_tag :
    after (exec (.unsupportedTag .output 0xFF#8) State.reset) (fun s => (s.regs.causeWord, s.regs.finfo)) =
      some (0x101#32, 0xFF#32) := by decide +kernel

/-- R197, the examples of `psnr_q`. -/
theorem test_psnr_examples :
    psnrQ 1 1 = 12321 ∧ psnrQ 65025 1 = 0 ∧ psnrQ 1 256 = 18486 ∧ psnrQ 13005 2 = 2560 ∧ psnrQ 6503 10 = 5119 := by
  refine ⟨?_, ?_, ?_, ?_, ?_⟩ <;> decide +kernel

/-- R199, the examples of `composite_q`. -/
theorem test_composite_examples :
    compositeQ 5120#32 5120#32 5120#32 = 5120#32 ∧ compositeQ 7680#32 4608#32 4608#32 = 6912#32 := by decide

/-! ### Witnesses: states and operands that meet the hypotheses of each statement, at the edges of its clauses -/

/-- Does a result go on? -/
def runs (r : Result) : Bool := (after r fun _ => true).getD false

theorem exists_next {r : Result} (h : runs r = true) : ∃ t, r = .next t := by
  cases r with
  | next t => exact ⟨t, rfl⟩
  | fault _ => simp [runs, after] at h
  | refused _ => simp [runs, after] at h

/-- The block with these events at its port. -/
def withPort (s : State) (xs : List Access) : State := { s with port := xs }

/-- The open session with its first frame pair already extracted. -/
def scoring : State := extracted frameA frameB

theorem witness_DecodeEncodeRoundTrip :
    (Instr.illegal 0x00000005#32).wf = true ∧ (Instr.unsupportedTag .output 7#8).wf = true ∧ (Instr.ext .b).wf = true := by
  decide

theorem witness_CommandDecodeFollowsTheOrder :
    0x00000200#32 >>> 9 ≠ 0#32 ∧
    0x00000005#32 &&& 0xFF#32 ∉ [0x00#32, 0x01#32, 0x02#32, 0x03#32, 0x04#32, 0x0F#32] ∧
    (0x00000103#32 &&& 0xFF#32 ≠ 0x02#32 ∧ (0x00000103#32).getLsbD 8 = true) ∧
    (0x0000000F#32 >>> 9 = 0#32 ∧ (0x0000000F#32).getLsbD 8 = false ∧ 0x0000000F#32 &&& 0xFF#32 = 0x0F#32) ∧
    (0x00000102#32 >>> 9 = 0#32 ∧ 0x00000102#32 &&& 0xFF#32 = 0x02#32 ∧ (0x00000102#32).getLsbD 8 = true) := by
  refine ⟨?_, ?_, ⟨?_, ?_⟩, ⟨?_, ?_, ?_⟩, ?_, ?_, ?_⟩ <;> decide

theorem witness_SupportedTagsAreZeroToSix :
    6 < (7#8).toNat ∧ 6 < (255#8).toNat ∧ (6#8).toNat ≤ 6 ∧ descValid (rom (romIndex 6#8)) = true := by decide

theorem witness_StepRunsTheDecodedCommand :
    (withPort scoring [.writeReg 0 0x3#32]).port = .writeReg 0 0x3#32 :: [] := rfl

theorem witness_StepRunsTheTagInFmtIn :
    (withPort (configured 2 2 1#8) [.writeReg 0 0x1#32]).port = .writeReg 0 0x00000001#32 :: [] := rfl

theorem witness_HostWritesReadWriteRegisters :
    ∀ i ∈ ([4, 5, 6, 7, 8, 9] : List (Fin 64)), (4 ≤ i.val ∧ i.val ≤ 9) ∧
      (withPort scoring [.writeReg i 0xFFFFFFFF#32]).port = .writeReg i 0xFFFFFFFF#32 :: [] := by
  intro i hi
  exact ⟨by revert i; decide, rfl⟩

theorem witness_ReservedAndReadOnlyRegisters :
    (∀ i ∈ ([10, 15, 31, 57, 63] : List (Fin 64)), (10 ≤ i.val ∧ i.val ≤ 15) ∨ i.val = 31 ∨ 57 ≤ i.val) ∧
    (∀ i ∈ ([1, 3, 10, 63] : List (Fin 64)), i ≠ 0 ∧ (i.val < 4 ∨ 9 < i.val)) ∧
    (withPort scoring [.writeReg 63 7#32]).port = .writeReg 63 7#32 :: [] ∧
    (withPort scoring [.readReg 1]).port = .readReg 1 :: [] := by
  refine ⟨by decide, by decide, rfl, rfl⟩

theorem witness_HostAccessesMemoryCells :
    (withPort scoring [.writeFb .b 0xFFFFFF 7#8]).port = .writeFb .b 0xFFFFFF 7#8 :: [] ∧ 0xFFFFFF < scoring.cfg.fbBytes ∧
    (withPort scoring [.readFb .a 0]).port = .readFb .a 0 :: [] ∧ 0 < scoring.cfg.fbBytes ∧
    (withPort scoring [.readPl .a .cr 0xFFFFFF]).port = .readPl .a .cr 0xFFFFFF :: [] := by
  refine ⟨rfl, by decide +kernel, rfl, by decide +kernel, rfl⟩

theorem witness_LoadPlacesTheFrame :
    frameA.length ≤ scoring.cfg.fbBytes ∧
      (withPort scoring (load .a frameA ++ [.frame])).port = load .a frameA ++ [.frame] := by
  refine ⟨by decide +kernel, rfl⟩

theorem witness_MissingCellsStopTheModel :
    (withPort scoring [.writeFb .a 0x1000000 7#8]).port = .writeFb .a 0x1000000 7#8 :: [] ∧
    scoring.cfg.fbBytes ≤ 0x1000000 ∧ ¬ scoring.cfg.fbBytes ≤ 0xFFFFFF ∧
    (withPort scoring [.readFb .a 0x1000000]).port = .readFb .a 0x1000000 :: [] ∧
    (withPort scoring [.readPl .a .y 0x1000000]).port = .readPl .a .y 0x1000000 :: [] := by
  refine ⟨rfl, by decide +kernel, by decide +kernel, rfl, rfl⟩

theorem witness_HardwareResetClearsTheBlock :
    State.reset.port = [] ∧ (withPort scoring [.hardwareReset]).port = .hardwareReset :: [] := ⟨rfl, rfl⟩

theorem witness_IllegalWordsFault :
    0x00000101#32 ∉ legalWords ∧ State.reset.regs.phase ≠ .faulted ∧ faulted.regs.phase = .faulted := by decide +kernel

theorem witness_UnsupportedTagsFault :
    6 < (7#8).toNat ∧ 6 < (255#8).toNat ∧ scoring.regs.phase ≠ .faulted := by decide +kernel

theorem witness_FaultedIgnoresAllButSrst :
    faulted.regs.phase = .faulted ∧ Instr.init ≠ .srst ∧ (0x00000001#32 : Word) ≠ 0x0000000F#32 ∧ (9 : Fin 64) ≠ 0 ∧
      (withPort faulted [.writeReg 0 0x1#32]).port = .writeReg 0 0x1#32 :: [] ∧
      (withPort faulted [.writeReg 9 6#32]).port = .writeReg 9 6#32 :: [] ∧
      (withPort faulted [.writeFb .b 0 6#8]).port = .writeFb .b 0 6#8 :: [] ∧ 0 < faulted.cfg.fbBytes ∧
      (withPort faulted [.readReg 2]).port = .readReg 2 :: [] := by
  refine ⟨?_, ?_, ?_, ?_, rfl, rfl, rfl, ?_, rfl⟩ <;> decide +kernel

theorem witness_FaultEntryWritesTheRecordAlone :
    Instr.init ≠ .frame ∧ State.reset.regs.phase ≠ .faulted ∧
      exec .init State.reset = .next (State.reset.enterFault .badResolution 0#1 0#32) ∧
      (State.reset.enterFault .badResolution 0#1 0#32).regs.phase = .faulted := by
  refine ⟨?_, ?_, ?_, ?_⟩
  case refine_3 => rfl
  all_goals decide +kernel

theorem witness_PhaseMachine :
    (∃ t, exec .init (configured 2 2 1#8) = .next t) ∧ (∃ t, exec .fin twoUsed = .next t) ∧
      ∃ t, exec .score scoring = .next t :=
  ⟨exists_next (by decide +kernel), exists_next (by decide +kernel), exists_next (by decide +kernel)⟩

theorem witness_CommandsOutOfSequenceFault :
    State.reset.regs.phase = .idle ∧ { Regs.zero with phase := .done }.phase = .done := ⟨rfl, rfl⟩

theorem witness_WhatInstructionsLeaveAlone :
    (∃ t, exec (.ext .a) (loaded frameA frameB) = .next t) ∧ Instr.ext .a ≠ .srst ∧ opensSession (.ext .a) = false ∧
      extracts (.ext .a) .b = false :=
  ⟨exists_next (by decide +kernel), by decide, rfl, rfl⟩

/-- The smallest areas with no empty plane: 4 in class 0, 2 in class 1. -/
theorem witness_InitReady : (configured 2 2 1#8).InitReady ∧ (configured 2 1 3#8).InitReady := by
  refine ⟨⟨?_, ?_, ?_, ?_, ?_⟩, ⟨?_, ?_, ?_, ?_, ?_⟩⟩ <;> decide +kernel

/-- The hypotheses of the statements about the seven formats: the tag in `FMT_IN`, no empty plane, a frame that fits. -/
def canOpen (s : State) (tag : Tag) (least : Nat) (size : Nat → Nat) : Prop :=
  s.InitReady ∧ least ≤ s.regs.width.toNat * s.regs.height.toNat ∧
    size (s.regs.width.toNat * s.regs.height.toNat) ≤ s.cfg.fbBytes ∧ s.regs.fmtIn = tag

theorem witness_Yv12Layout : canOpen (configured 2 2 0#8) 0#8 4 (· * 3 / 2) := by
  refine ⟨⟨?_, ?_, ?_, ?_, ?_⟩, ?_, ?_, ?_⟩ <;> decide +kernel

theorem witness_IyuvLayout : canOpen (configured 2 2 1#8) 1#8 4 (· * 3 / 2) := by
  refine ⟨⟨?_, ?_, ?_, ?_, ?_⟩, ?_, ?_, ?_⟩ <;> decide +kernel

theorem witness_Nv12Layout : canOpen (configured 2 2 2#8) 2#8 4 (· * 3 / 2) := by
  refine ⟨⟨?_, ?_, ?_, ?_, ?_⟩, ?_, ?_, ?_⟩ <;> decide +kernel

theorem witness_UyvyLayout : canOpen (configured 2 1 3#8) 3#8 2 (· * 2) := by
  refine ⟨⟨?_, ?_, ?_, ?_, ?_⟩, ?_, ?_, ?_⟩ <;> decide +kernel

theorem witness_YvyuLayout : canOpen (configured 2 1 4#8) 4#8 2 (· * 2) := by
  refine ⟨⟨?_, ?_, ?_, ?_, ?_⟩, ?_, ?_, ?_⟩ <;> decide +kernel

theorem witness_Yuy2Layout : canOpen (configured 2 1 5#8) 5#8 2 (· * 2) := by
  refine ⟨⟨?_, ?_, ?_, ?_, ?_⟩, ?_, ?_, ?_⟩ <;> decide +kernel

theorem witness_Y422Layout : canOpen (configured 2 1 6#8) 6#8 2 (· * 2) := by
  refine ⟨⟨?_, ?_, ?_, ?_, ?_⟩, ?_, ?_, ?_⟩ <;> decide +kernel

theorem witness_InitOpensASession :
    ((configured 2 2 1#8).InitReady ∧ (configured 2 2 1#8).regs.fmtIn.toNat ≤ 6 ∧
      boundary (descClass (rom 1#3)) 4 3#2 ≤ (configured 2 2 1#8).cfg.fbBytes ∧ descClass (rom 1#3) = false) ∧
    (configured 2 1 3#8).InitReady ∧ (configured 2 1 3#8).regs.fmtIn.toNat ≤ 6 ∧
      boundary (descClass (rom 3#3)) 2 3#2 ≤ (configured 2 1 3#8).cfg.fbBytes ∧ descClass (rom 3#3) = true := by
  refine ⟨⟨witness_InitReady.1, ?_, ?_, ?_⟩, witness_InitReady.2, ?_, ?_, ?_⟩ <;> decide +kernel

/-- One configuration for each clause: the input tag, the output tag, no width, no height, a frame one byte too large, and
an area whose Cb, or whose Cr, is empty. No clause about an empty luma plane can be met: `Y_LEN = wh`. -/
theorem witness_InitFaultsInOrder :
    6 < (configured 2 2 7#8).regs.fmtIn.toNat ∧
    (configured 0 1 6#8).regs.width.toNat = 0 ∧ (configured 1 0 6#8).regs.height.toNat = 0 ∧
    (configured 4096 2731 0#8).cfg.fbBytes < 4096 * 2731 * 3 / 2 ∧ 4096 * 2730 * 3 / 2 ≤ (configured 4096 2730 0#8).cfg.fbBytes ∧
    ((descRange (rom 1#3) 1 .y).len ≠ 0 ∧ (descRange (rom 1#3) 1 .cb).len = 0) ∧
    ((descRange (rom 3#3) 1 .y).len ≠ 0 ∧ (descRange (rom 3#3) 1 .cb).len ≠ 0 ∧ (descRange (rom 3#3) 1 .cr).len = 0) ∧
    (configured 2 2 7#8).regs.phase ≠ .faulted := by decide +kernel

/-- The output-tag clause: a supported input tag beside tag 7. -/
theorem witness_InitFaultsInOrder_output :
    let s := (configured 2 2 6#8).withRegs { (configured 2 2 6#8).regs with fmtOut := 7#8 }
    s.regs.phase ≠ .faulted ∧ s.regs.fmtIn.toNat ≤ 6 ∧ 6 < s.regs.fmtOut.toNat := by decide +kernel

theorem witness_EmptyPlanesExactlyAtTinyAreas :
    (0#8).toNat ≤ 6 ∧ (6#8).toNat ≤ 6 ∧ (1 ≤ 3 ∧ 3 < minArea (descClass (rom 0#3))) ∧
      ¬ 4 < minArea (descClass (rom 0#3)) ∧ 1 < minArea (descClass (rom 6#3)) ∧ ¬ 2 < minArea (descClass (rom 6#3)) := by
  decide +kernel

theorem witness_LayoutPartitionsTheFrame :
    (6#8).toNat ≤ 6 ∧ 1 ≤ 1 ∧ 0 < (descRange (rom (romIndex 6#8)) 1 .y).len ∧
      0 < frameBytes (descClass (rom (romIndex 6#8))) 1 := by decide +kernel

theorem witness_PlaneLengths :
    (1#8).toNat ≤ 6 ∧ descClass (rom (romIndex 1#8)) = false ∧ 4 % 4 = 0 ∧ 2 ≤ 6 % 4 ∧ 5 % 4 = 1 ∧
      (3#8).toNat ≤ 6 ∧ descClass (rom (romIndex 3#8)) = true ∧ 2 % 2 = 0 ∧ 1 % 2 = 1 := by decide +kernel

theorem witness_ExtractCopiesThePlanes :
    (loaded frameA frameB).regs.phase = .ready ∧
      (loaded frameA frameB).regs.frameSize.toNat ≤ ((loaded frameA frameB).regs.lenBytes.get .b).toNat ∧
      (loaded frameA frameB).layoutFits = true ∧ 3 < ((loaded frameA frameB).regs.layout.get .y).len.toNat ∧
      ((loaded frameA frameB).regs.layout.get .cb).len.toNat ≤ 1 := by decide +kernel

theorem witness_ShortFramesFault :
    let s := (loaded frameA frameB).withRegs { (loaded frameA frameB).regs with lenBytes := ⟨6#32, 5#32⟩ }
    s.regs.phase = .ready ∧ (s.regs.lenBytes.get .b).toNat < s.regs.frameSize.toNat := by decide +kernel

theorem witness_ExtractThenRepackIsTheFrame :
    (loaded frameA frameB).cfg.wf ∧ (loaded frameA frameB).layoutOf 1#8 4 ∧ (loaded frameA frameB).regs.phase = .ready ∧
      (loaded frameA frameB).regs.frameSize.toNat ≤ ((loaded frameA frameB).regs.lenBytes.get .a).toNat := by
  refine ⟨by decide +kernel, ⟨?_, ?_, ?_, ?_, ?_⟩, by decide +kernel, by decide +kernel⟩ <;> decide +kernel

/-- The hypotheses that every statement about a `SCORE` that commits shares. -/
def canScore (s : State) : Prop :=
  s.regs.phase = .ready ∧ s.regs.pv = ⟨true, true⟩ ∧ s.regs.frameIdx ≠ 0xFFFFFFFF#32 ∧ s.lengthsFit = true

theorem witness_ScoreSkipsZeroLuma :
    canScore (extracted frameA darkFrame) ∧ ∀ k, k < (extracted frameA darkFrame).regs.zrefLen.toNat →
      (extracted frameA darkFrame).readPl .b .y k = 0#16 := by
  refine ⟨⟨?_, ?_, ?_, ?_⟩, ?_⟩ <;> decide +kernel

theorem witness_ScoreAccumulates :
    canScore scoring ∧ ∃ k, k < scoring.regs.zrefLen.toNat ∧ scoring.readPl .b .y k ≠ 0#16 := by
  refine ⟨⟨?_, ?_, ?_, ?_⟩, 0, ?_, ?_⟩ <;> decide +kernel

theorem witness_ScoreFaults :
    ((loaded frameA frameB).regs.phase = .ready ∧ (loaded frameA frameB).regs.pv.a = false) ∧
    let r := { scoring.regs with frameIdx := 0xFFFFFFFF#32 }
    r.phase = .ready ∧ r.pv.a = true ∧ r.pv.b = true ∧ r.frameIdx = 0xFFFFFFFF#32 := by decide +kernel

theorem witness_SseIsTheSumOfSquaredDifferences :
    ∀ side k, k < (scoring.regs.layout.get .y).len.toNat → (scoring.readPl side .y k).toNat ≤ 255 := by
  intro side
  cases side <;> decide +kernel

theorem witness_PsnrIsTheDefinedInteger : (1 ≤ 1 ∧ 1 ≤ 65025 * 1) ∧ 65025 ≤ 65025 * 1 := by decide

theorem witness_PsnrBounds : 1 ≤ 1 ∧ 2 ^ 32 - 1 < 2 ^ 32 := by decide

theorem witness_PsnrIsMonotone : (1 ≤ 1 ∧ 1 ≤ 2) ∧ 1 ≤ 2 ∧ 1 ≤ 1 ∧ 1 ≤ 255 := by decide

theorem witness_CompositeIsTheWeightedMean :
    psnrLegal 0x80000000#32 ∧ psnrLegal 0#32 ∧ psnrLegal 36981#32 ∧ (36981#32 : Word) ≠ 0x80000000#32 := by
  refine ⟨Or.inl rfl, Or.inr (by decide), Or.inr (by decide), by decide⟩

theorem witness_SidesAreSymmetric :
    (extracted frameB frameA).regs.layout = scoring.regs.layout ∧
      ∀ p k, k < (scoring.regs.layout.get p).len.toNat →
        (extracted frameB frameA).readPl .a p k = scoring.readPl .b p k ∧
          (extracted frameB frameA).readPl .b p k = scoring.readPl .a p k := by
  refine ⟨by decide +kernel, ?_⟩
  intro p
  cases p <;> decide +kernel

theorem witness_UniformOffsetOfOne :
    1 ≤ (scoring.regs.layout.get .y).len.toNat ∧
      ∀ k, k < (scoring.regs.layout.get .y).len.toNat → (scoring.readPl .a .y k).toNat ≤ 254 ∧
        (scoring.readPl .b .y k).toNat = (scoring.readPl .a .y k).toNat + 1 := by
  refine ⟨?_, ?_⟩ <;> decide +kernel

theorem witness_EqualPlanesScoreTheSentinel :
    canScore (extracted frameA frameA) ∧
      (∃ k, k < (extracted frameA frameA).regs.zrefLen.toNat ∧ (extracted frameA frameA).readPl .b .y k ≠ 0#16) ∧
      ∀ p k, k < ((extracted frameA frameA).regs.layout.get p).len.toNat →
        (extracted frameA frameA).readPl .a p k = (extracted frameA frameA).readPl .b p k := by
  refine ⟨⟨?_, ?_, ?_, ?_⟩, ⟨1, ?_, ?_⟩, ?_⟩
  case refine_7 => intro p; cases p <;> decide +kernel
  all_goals decide +kernel

/-- The second conjunct, at the smallest `IYUV` frame: a file of one frame that is lit at its second luma byte, a file of one
dark frame, and an empty file. -/
theorem witness_EqualPlanesScoreTheSentinel_run :
    let size := frameBytes (descClass (rom (romIndex 1#8))) (2 * 2)
    let luma := descRange (rom (romIndex 1#8)) (2 * 2) .y
    State.reset.cfg.wf ∧ (1#8).toNat ≤ 6 ∧ minArea (descClass (rom (romIndex 1#8))) ≤ 2 * 2 ∧
      size ≤ State.reset.cfg.fbBytes ∧ frameCount frameA.length frameA.length size none = 1 ∧
      (1 < luma.len ∧ frameA[0 * size + (luma.start + 1 * luma.stride)]? = some 1#8) ∧
      frameCount darkFrame.length darkFrame.length size none = 1 ∧
      (∀ k, k < luma.len → darkFrame[0 * size + (luma.start + k * luma.stride)]? = some 0#8) ∧
      frameCount 0 0 size none = 0 := by
  refine ⟨?_, ?_, ?_, ?_, ?_, ?_, ?_, ?_, ?_⟩ <;> decide +kernel

theorem witness_FinWritesTheMeans : twoUsed.regs.phase = .ready ∧ twoUsed.regs.used ≠ 0#32 := by decide +kernel

/-- The accumulator invariant holds after two used frames out of three, one of them perfect in Cb. -/
theorem witness_MeansAreExact :
    twoUsed.CountersOk ∧ twoUsed.regs.phase = .ready ∧ twoUsed.regs.used ≠ 0#32 ∧ (∃ t, exec .fin twoUsed = .next t) ∧
      twoUsed.regs.nans.y = false ∧ twoUsed.regs.nans.cr = false := by
  refine ⟨⟨by decide +kernel, ?_, by decide +kernel, ?_, ?_⟩, by decide +kernel, by decide +kernel,
    exists_next (by decide +kernel), rfl, rfl⟩
  · refine ⟨?_, ?_, ?_, ?_⟩ <;> decide +kernel
  · exact ⟨Or.inr (by decide +kernel), Or.inr (by decide +kernel), Or.inr (by decide +kernel), Or.inr (by decide +kernel)⟩
  · exact ⟨Or.inr (by decide +kernel), Or.inr (by decide +kernel), Or.inr (by decide +kernel), Or.inr (by decide +kernel)⟩

theorem witness_FinWithoutDataFaults : scoring.regs.phase = .ready ∧ scoring.regs.used = 0#32 := by decide +kernel

theorem witness_FrameExtractsAndScores :
    (loaded frameA frameB).regs.phase = .ready ∧
      (loaded frameA frameB).regs.frameSize.toNat ≤ (loaded frameA frameB).regs.lenBytes.a.toNat ∧
      (loaded frameA frameB).regs.frameSize.toNat ≤ (loaded frameA frameB).regs.lenBytes.b.toNat ∧
      (loaded frameA frameB).layoutFits = true ∧ (loaded frameA frameB).lengthsFit = true ∧
      (loaded frameA frameB).regs.frameIdx ≠ 0xFFFFFFFF#32 := by decide +kernel

theorem witness_StepKeepsMemoriesOk :
    (withPort scoring [.writeReg 0 0x3#32]).memoriesOk ∧ ∃ t, step (withPort scoring [.writeReg 0 0x3#32]) = .next t := by
  refine ⟨⟨?_, ?_⟩, exists_next (by decide +kernel)⟩
  · intro side
    cases side <;> exact ⟨by decide +kernel, by unfold Memory.below; decide +kernel⟩
  · intro side p
    cases side <;> cases p <;>
      exact ⟨by decide +kernel, by unfold Memory.below; decide +kernel, by unfold Memory.bytesOnly; decide +kernel⟩

/-- The session invariant holds with both sides extracted, and the `SCORE` that follows steps. -/
theorem witness_StepKeepsSessionOk :
    (withPort scoring [.writeReg 0 0x3#32]).SessionOk ∧ ∃ t, step (withPort scoring [.writeReg 0 0x3#32]) = .next t := by
  refine ⟨⟨by decide +kernel, ?_, ?_, ?_, ?_, ?_, ?_⟩, exists_next (by decide +kernel)⟩
  · intro _; decide +kernel
  · intro _ p; cases p <;> refine ⟨?_, ?_, ?_, ?_⟩ <;> decide +kernel
  · intro _; decide +kernel
  · intro _; show 0 < _; decide +kernel
  · intro side _
    refine ⟨by show 0 < _; decide +kernel, ?_⟩
    intro p k h
    have hk : k < 4 := Nat.lt_of_lt_of_le h (by cases p <;> decide +kernel)
    cases side <;> cases p <;> (revert h; interval_cases k) <;> intro h <;>
      first
      | exact ⟨_, rfl, by decide +kernel⟩
      | exact absurd h (by decide +kernel)
  · intro p; cases p <;> decide +kernel

theorem witness_StepKeepsCountersOk :
    (withPort twoUsed [.writeReg 0 0x4#32]).CountersOk ∧ ∃ t, step (withPort twoUsed [.writeReg 0 0x4#32]) = .next t := by
  obtain ⟨h, -⟩ := witness_MeansAreExact
  exact ⟨⟨h.counts, h.sums, h.composite, h.psnr, h.mean⟩, exists_next (by decide +kernel)⟩

theorem witness_StepKeepsPhaseOk :
    (withPort twoUsed [.writeReg 0 0x4#32]).PhaseOk ∧ ∃ t, step (withPort twoUsed [.writeReg 0 0x4#32]) = .next t := by
  refine ⟨⟨?_, ?_, ?_, ?_, ?_, ?_⟩, exists_next (by decide +kernel)⟩ <;> decide +kernel

theorem witness_InvariantStatesNeverStop : (withPort scoring []).SessionOk := by
  obtain ⟨h, -⟩ := witness_StepKeepsSessionOk
  exact ⟨h.config, h.size, h.ranges, h.zref, h.session, h.extracted, h.errors⟩

end Sys2Proof.Tests
end

section
/-! PROOFS. What the reset state and every step keep: the session invariant (10_state.md R30 to R34, R48), and the four
invariants at reset (70_reset_and_hazards.md R301, R302). -/

namespace Sys2Proof.Machine

/-! ### What a host register write leaves alone -/

/-- R26, R27, R28: a host write reaches the host's own registers and no other. -/
theorem Regs.withoutHostRegs_write (r : Regs) (i : Fin 64) (v : Word) :
    (r.write i v).withoutHostRegs = r.withoutHostRegs := by
  unfold Regs.write
  split <;> rfl

@[simp] theorem Regs.write_phase (r : Regs) (i : Fin 64) (v : Word) : (r.write i v).phase = r.phase :=
  (congrArg Regs.phase (r.withoutHostRegs_write i v) :)

@[simp] theorem Regs.write_pv (r : Regs) (i : Fin 64) (v : Word) : (r.write i v).pv = r.pv :=
  (congrArg Regs.pv (r.withoutHostRegs_write i v) :)

@[simp] theorem Regs.write_desc (r : Regs) (i : Fin 64) (v : Word) : (r.write i v).desc = r.desc :=
  (congrArg Regs.desc (r.withoutHostRegs_write i v) :)

@[simp] theorem Regs.write_frameSize (r : Regs) (i : Fin 64) (v : Word) : (r.write i v).frameSize = r.frameSize :=
  (congrArg Regs.frameSize (r.withoutHostRegs_write i v) :)

@[simp] theorem Regs.write_layout (r : Regs) (i : Fin 64) (v : Word) : (r.write i v).layout = r.layout :=
  (congrArg Regs.layout (r.withoutHostRegs_write i v) :)

@[simp] theorem Regs.write_zrefLen (r : Regs) (i : Fin 64) (v : Word) : (r.write i v).zrefLen = r.zrefLen :=
  (congrArg Regs.zrefLen (r.withoutHostRegs_write i v) :)

@[simp] theorem Regs.write_sse (r : Regs) (i : Fin 64) (v : Word) : (r.write i v).sse = r.sse :=
  (congrArg Regs.sse (r.withoutHostRegs_write i v) :)

/-! ### The layout that `INIT` commits -/

/-- R132: the last boundary, the frame size, is the greatest. -/
theorem boundary_le_frameBytes (cls : Bool) (wh : Nat) (i : BitVec 2) : boundary cls wh i ≤ frameBytes cls wh := by
  have hi : i = 0#2 ∨ i = 1#2 ∨ i = 2#2 ∨ i = 3#2 := by revert i; decide
  rcases hi with rfl | rfl | rfl | rfl <;> cases cls <;> simp <;> omega

/-- R111: no plane descriptor of the ROM has the stride code 3. -/
theorem strideCode_rom_ne_three (i : BitVec 3) (p : Plane) : strideCode (descPlane (rom i) p) ≠ 3#2 := by
  revert i
  cases p <;> decide

/-- R31, R111: the strides of the ROM. -/
theorem descRange_stride (i : BitVec 3) (wh : Nat) (p : Plane) :
    (descRange (rom i) wh p).stride = 1 ∨ (descRange (rom i) wh p).stride = 2 ∨ (descRange (rom i) wh p).stride = 4 := by
  have hcode : ∀ c : BitVec 2, c ≠ 3#2 → 2 ^ c.toNat = 1 ∨ 2 ^ c.toNat = 2 ∨ 2 ^ c.toNat = 4 := by decide
  exact hcode _ (strideCode_rom_ne_three i p)

/-- R137: a range with addresses has its start below its stop, and its length is the rounded-up quotient. -/
theorem rangeLen_of_ne_zero {start stop stride : Nat} (h : rangeLen start stop stride ≠ 0) :
    start < stop ∧ rangeLen start stop stride = ceilDiv (stop - start) stride := by
  by_cases hlt : start < stop
  · exact ⟨hlt, if_pos hlt⟩
  · exact absurd (if_neg hlt) h

/-- R133: `INIT` finds no empty plane exactly when no plane is empty. -/
theorem firstEmptyPlane_eq_none {d : Word} {wh : Nat} :
    firstEmptyPlane d wh = none ↔ ∀ p, (descRange d wh p).len ≠ 0 := by
  unfold firstEmptyPlane
  constructor
  · intro h p
    split_ifs at h with hy hcb hcr
    cases p <;> assumption
  · intro h
    simp [h]

/-- R31, R32: a non-empty range of the ROM in a frame whose size a register holds is good in its registers. -/
theorem descRange_toRegs_good {i : BitVec 3} {wh : Nat} {p : Plane} (hne : (descRange (rom i) wh p).len ≠ 0)
    (hsize : frameBytes (descClass (rom i)) wh < 2 ^ 32) :
    (descRange (rom i) wh p).toRegs.good (frameBytes (descClass (rom i)) wh) := by
  have hstop : (descRange (rom i) wh p).stop ≤ frameBytes (descClass (rom i)) wh := boundary_le_frameBytes _ _ _
  obtain ⟨hlt, hlen⟩ : (descRange (rom i) wh p).start < (descRange (rom i) wh p).stop ∧ (descRange (rom i) wh p).len =
      ceilDiv ((descRange (rom i) wh p).stop - (descRange (rom i) wh p).start) (descRange (rom i) wh p).stride :=
    rangeLen_of_ne_zero hne
  have hstride := descRange_stride i wh p
  generalize descRange (rom i) wh p = r at *
  obtain ⟨start, stop, stride, len⟩ := r
  simp only [ceilDiv] at hlen hlt hstop hstride
  have hlen_le : len ≤ stop - start := by rcases hstride with rfl | rfl | rfl <;> omega
  have hstart32 : start % 2 ^ 32 = start := Nat.mod_eq_of_lt (by omega)
  have hstop32 : stop % 2 ^ 32 = stop := Nat.mod_eq_of_lt (by omega)
  have hlen32 : len % 2 ^ 32 = len := Nat.mod_eq_of_lt (by omega)
  simp only [PlaneRange.good, RangeN.toRegs, BitVec.toNat_ofNat, hstart32, hstop32, hlen32, ceilDiv]
  refine ⟨hlt, hstop, ?_, ?_⟩ <;> rcases hstride with rfl | rfl | rfl <;> simp [hlen]

/-- R148: the luma plane of every supported tag has as many samples as the frame has pixels. -/
theorem descRange_y_len {tag : Tag} (h : tag.toNat ≤ 6) (wh : Nat) :
    (descRange (rom (romIndex tag)) wh .y).len = wh := by
  rcases tag_cases tag h with rfl | rfl | rfl | rfl | rfl | rfl | rfl
  · exact congrArg RangeN.len (yv12_y wh)
  · exact congrArg RangeN.len (iyuv_y wh)
  · exact congrArg RangeN.len (nv12_y wh)
  · exact congrArg RangeN.len (uyvy_y wh)
  · exact congrArg RangeN.len (yvyu_y wh)
  · exact congrArg RangeN.len (yuy2_y wh)
  · exact congrArg RangeN.len (y422_y wh)

/-! ### The samples and their squared errors -/

/-- R172: an extracted sample is a byte, zero-extended. -/
theorem sampleAt_le (s : State) (side : Side) (r : PlaneRange) (k : Nat) : (s.sampleAt side r k).toNat ≤ 255 := by
  unfold State.sampleAt
  rw [BitVec.toNat_setWidth]
  omega

/-- A cell of a plane memory after the extraction of its side. -/
theorem read?_extract_same (s : State) (side : Side) (p : Plane) (k : Nat) :
    Memory.read? (((s.extract side).pl.get side).get p) k =
      if k < (s.regs.layout.get p).len.toNat then some (s.sampleAt side (s.regs.layout.get p) k)
      else Memory.read? ((s.pl.get side).get p) k := by
  simp [State.extractedPlane, Memory.read?_fill]

/-- R195: the bound of a sum of squared errors over byte-valued samples. -/
theorem sseOf_le {s : State} {p : Plane}
    (h : ∀ side k, k < (s.regs.layout.get p).len.toNat → (s.readPl side p k).toNat ≤ 255) :
    s.sseOf p ≤ 65025 * (s.regs.layout.get p).len.toNat := by
  rw [State.sseOf, sumBelow_eq_sum]
  calc ∑ k ∈ Finset.range (s.regs.layout.get p).len.toNat, squaredError (s.readPl .a p k) (s.readPl .b p k)
      ≤ (Finset.range (s.regs.layout.get p).len.toNat).card • 65025 :=
        Finset.sum_le_card_nsmul _ _ _ fun k hk =>
          squaredError_le (h .a k (Finset.mem_range.mp hk)) (h .b k (Finset.mem_range.mp hk))
    _ = 65025 * (s.regs.layout.get p).len.toNat := by rw [Finset.card_range, smul_eq_mul, Nat.mul_comm]

/-- R34: the error registers after a scored frame, plane by plane. -/
theorem useFrame_sse_get (r : Regs) (e : Planes Nat) (v : Series Word) (p : Plane) :
    (r.useFrame e v).sse.get p = BitVec.ofNat 48 (e.get p) := by
  cases p <;> rfl

/-! ### The session invariant under the elementary changes -/

/-- R175: in a session state every sample of an extracted side reads as a byte. -/
theorem State.SessionOk.readPl_le {s : State} (h : s.SessionOk) {side : Side} (hpv : s.regs.pv.get side = true)
    {p : Plane} {k : Nat} (hk : k < (s.regs.layout.get p).len.toNat) : (s.readPl side p k).toNat ≤ 255 := by
  obtain ⟨-, hsamples⟩ := h.extracted side hpv
  obtain ⟨v, hread, hv⟩ := hsamples p k hk
  simpa [State.readPl, hread] using hv

/-- R301: with every register 0 the invariant asks for a legal capacity only. -/
theorem sessionOk_of_zero {s : State} (hcfg : s.cfg.wf) (hregs : s.regs = Regs.zero) : s.SessionOk := by
  have hnone : ¬ s.hasLayout := by simp [State.hasLayout, hregs, Regs.zero]
  refine ⟨hcfg, (absurd · hnone), (absurd · hnone), (absurd · hnone), fun hp => ?_, fun side hpv => ?_, fun p => ?_⟩
  · simp [hregs, Regs.zero] at hp
  · cases side <;> simp [hregs, Regs.zero, Sides.get] at hpv
  · cases p <;> simp [hregs, Regs.zero, Planes.get]

/-- New registers keep the invariant when they keep the layout, open no session, mark no side and hold bounded errors. -/
theorem State.SessionOk.withRegs {s : State} (h : s.SessionOk) {r : Regs} (hlayout : sameLayout s (s.withRegs r))
    (hphase : r.phase = .ready ∨ r.phase = .done → s.regs.phase = .ready ∨ s.regs.phase = .done)
    (hpv : ∀ side, r.pv.get side = true → s.regs.pv.get side = true)
    (herrors : ∀ p, (r.sse.get p).toNat ≤ 65025 * (s.regs.layout.get p).len.toNat) : (s.withRegs r).SessionOk := by
  obtain ⟨-, hsize, hranges, hzref⟩ := hlayout
  simp only [State.withRegs_regs] at hsize hranges hzref
  have hhas : (s.withRegs r).hasLayout ↔ s.hasLayout := by simp [State.hasLayout, hsize]
  constructor
  case config => exact h.config
  case size => simpa [hhas, hsize] using h.size
  case ranges => simpa [hhas, hsize, hranges] using h.ranges
  case zref => simpa [hhas, hzref, hranges] using h.zref
  case session => exact fun hp => hhas.mpr (h.session (hphase hp))
  case extracted =>
    intro side hside
    obtain ⟨hl, hsamples⟩ := h.extracted side (hpv side hside)
    exact ⟨hhas.mpr hl, by simpa [hranges] using hsamples⟩
  case errors => simpa [hranges] using herrors

/-- R130, R139: a successful `INIT` commits a layout inside the buffers and starts with no side extracted. -/
theorem State.SessionOk.openSession {s : State} (h : s.SessionOk) {tag : Tag} (hpass : InitPassed tag s) :
    (s.withRegs (s.regs.openSession (rom (romIndex tag)) s.regs.area)).SessionOk := by
  have hcfg := h.config
  have hfits := hpass.size
  have hplanes := firstEmptyPlane_eq_none.mp hpass.planes
  have hlt : frameBytes (descClass (rom (romIndex tag))) s.regs.area < 2 ^ 32 := by
    obtain ⟨-, hcap⟩ := hcfg
    omega
  have hgood := fun p => descRange_toRegs_good (hplanes p) hlt
  have hsize : (BitVec.ofNat 32 (frameBytes (descClass (rom (romIndex tag))) s.regs.area)).toNat =
      frameBytes (descClass (rom (romIndex tag))) s.regs.area := by
    rw [BitVec.toNat_ofNat, Nat.mod_eq_of_lt hlt]
  constructor
  case config => exact hcfg
  case size => exact fun _ => hsize.trans_le hfits
  case ranges =>
    intro _ p
    rw [State.withRegs_regs, Regs.openSession_layout, Regs.openSession_frameSize, Planes.get_tabulate, hsize]
    exact hgood p
  case zref => exact fun _ => congrArg (BitVec.ofNat 32) (descRange_y_len hpass.tagIn s.regs.area).symm
  case session =>
    intro _
    obtain ⟨hstart, hstop, -⟩ := hgood .y
    rw [State.hasLayout, State.withRegs_regs, Regs.openSession_frameSize, hsize]
    exact Nat.zero_lt_of_lt (hstart.trans_le hstop)
  case extracted => intro side hpv; cases side <;> cases hpv
  case errors => intro p; cases p <;> exact Nat.zero_le _

/-- R170, R175: `EXT` writes every sample of the side it marks, and leaves the other side's. -/
theorem State.SessionOk.extract {s : State} (h : s.SessionOk) (hready : s.regs.phase = .ready) (side : Side) :
    (s.extract side).SessionOk := by
  refine ⟨h.config, h.size, h.ranges, h.zref, h.session, fun t hpv => ?_, h.errors⟩
  by_cases ht : t = side
  · subst ht
    refine ⟨h.session (.inl hready), fun p k hk => ⟨s.sampleAt t (s.regs.layout.get p) k, ?_, sampleAt_le ..⟩⟩
    exact (read?_extract_same s t p k).trans (if_pos hk)
  · simp only [State.extract_regs, Regs.markExtracted_pv, Sides.get_set_other _ _ ht] at hpv
    obtain ⟨hl, hsamples⟩ := h.extracted t hpv
    exact ⟨hl, by simpa [Sides.get_set_other _ _ ht] using hsamples⟩

/-- R190, R193: `SCORE` of two extracted sides leaves bounded errors, whether it skips or not. -/
theorem State.SessionOk.scored {s : State} (h : s.SessionOk) (ha : s.regs.pv.a = true) (hb : s.regs.pv.b = true) :
    s.scored.SessionOk := by
  unfold State.scored
  split
  · exact h.withRegs ⟨rfl, rfl, rfl, rfl⟩ id (fun side hpv => by cases side <;> cases hpv) h.errors
  · refine h.withRegs ⟨rfl, rfl, rfl, rfl⟩ id (fun side hpv => by cases side <;> cases hpv) fun p => ?_
    rw [useFrame_sse_get, Planes.get_tabulate, BitVec.toNat_ofNat]
    have hpv : ∀ side, s.regs.pv.get side = true := by
      intro side
      cases side
      · exact ha
      · exact hb
    exact (Nat.mod_le _ _).trans (sseOf_le fun side _ hk => h.readPl_le (hpv side) hk)

/-- The session invariant is closed under every elementary change of a command. -/
theorem kept_sessionOk : Kept State.SessionOk where
  fault _ _ _ _ h _ _ := h.withRegs ⟨rfl, rfl, rfl, rfl⟩ (by simp) (fun _ => id) h.errors
  reset _ h := sessionOk_of_zero h.config rfl
  opened _ _ h hpass := h.openSession hpass
  extracted side _ h hready _ := h.extract hready side
  scored _ h _ ha hb _ _ := h.scored ha hb
  finished _ h hready _ := h.withRegs ⟨rfl, rfl, rfl, rfl⟩ (fun _ => .inl hready) (fun _ => id) h.errors

/-- A host register write keeps the session invariant. -/
theorem State.SessionOk.write {s : State} (h : s.SessionOk) (i : Fin 64) (v : Word) :
    (s.withRegs (s.regs.write i v)).SessionOk :=
  h.withRegs (by simp [sameLayout]) (by simp) (by simp) (by simpa using h.errors)

/-- Settles O56: the six changes of the commands by `kept_sessionOk`, and what the host does beside its commands touches
neither the layout nor the planes, or clears all registers. -/
theorem stepKeepsSessionOk : Obligations.StepKeepsSessionOk := by
  intro s t hs hstep
  refine kept_sessionOk.step ?port ?write ?answer ?fb ?reset hs hstep
  case port => exact fun _ _ h => ⟨h.config, h.size, h.ranges, h.zref, h.session, h.extracted, h.errors⟩
  case write => exact fun _ i v h => h.write i v
  case answer => exact fun _ _ h => ⟨h.config, h.size, h.ranges, h.zref, h.session, h.extracted, h.errors⟩
  case fb => exact fun _ _ _ _ h _ => ⟨h.config, h.size, h.ranges, h.zref, h.session, h.extracted, h.errors⟩
  case reset => exact fun _ h => sessionOk_of_zero h.config rfl

/-! ### The reset state -/

/-- R302: a state in which no memory cell has been written has its memories in order. -/
theorem memoriesOk_of_empty {s : State} (hfb : s.fb = ⟨[], []⟩) (hpl : s.pl = ⟨⟨[], [], []⟩, ⟨[], [], []⟩⟩) :
    s.memoriesOk := by
  have hfbnil : ∀ side, s.fb.get side = [] := by intro side; cases side <;> simp [hfb, Sides.get]
  have hplnil : ∀ side p, (s.pl.get side).get p = [] := by
    intro side p
    cases side <;> cases p <;> simp [hpl, Sides.get, Planes.get]
  simp [State.memoriesOk, hfbnil, hplnil, Memory.below, Memory.bytesOnly]

/-- R301: with every register 0 the accumulators are consistent. -/
theorem countersOk_of_zero {s : State} (hregs : s.regs = Regs.zero) : s.CountersOk := by
  constructor <;> simp [hregs, Regs.zero, sumsBounded, seriesLegal, psnrLegal]

/-- R301: with every register 0 the block is in IDLE with no fault recorded. -/
theorem phaseOk_of_zero {s : State} (hregs : s.regs = Regs.zero) : s.PhaseOk := by
  constructor <;> simp [hregs, Regs.zero, Regs.withoutHostRegs]

/-- Settles O59: no memory cell is written, every register is 0, and the default capacity is legal (log entry 1). -/
theorem resetMeetsTheInvariants : Obligations.ResetMeetsTheInvariants :=
  ⟨memoriesOk_of_empty rfl rfl, sessionOk_of_zero (by decide) rfl, countersOk_of_zero rfl, phaseOk_of_zero rfl⟩

end Sys2Proof.Machine
end

section
/-! PROOFS. What every step keeps of the memories, the accumulators and the phase (10_state.md R25, R36 to R39, R45, R48),
the register map at the port (R22 to R40), and what no instruction changes (R26 to R33, 20_memory.md R71, R83). -/

namespace Sys2Proof.Machine

/-! ### One event at the port -/

/-- R80: a step takes the next event from the stream and performs it. -/
theorem step_of_port {s : State} {x : Access} {rest : List Access} (h : s.port = x :: rest) :
    step s = perform x { s with port := rest } := by
  rw [step, takeEvent, h]

/-- R22: a host write of any register but `CMD` writes the register and goes on. -/
theorem perform_writeReg {i : Fin 64} (hi : i ≠ 0) (v : Word) (s : State) :
    perform (.writeReg i v) s = .next (s.withRegs (s.regs.write i v)) := if_neg hi

/-- R190, R193: `SCORE` that commits either skips the frame pair or uses it. -/
theorem State.scored_cases (s : State) :
    s.scored = s.withRegs s.regs.skipFrame
      ∨ s.scored = s.withRegs (s.regs.useFrame (Planes.tabulate s.sseOf) s.framePsnr) := by
  unfold State.scored
  split
  · exact .inl rfl
  · exact .inr rfl

/-! ### The memories -/

/-- R172: a fill with byte-valued samples keeps a memory byte-valued. -/
theorem Memory.bytesOnly_fill {m : Memory 16} (h : Memory.bytesOnly m) {f : Nat → Sample}
    (hf : ∀ k, (f k).toNat ≤ 255) (n : Nat) : Memory.bytesOnly (Memory.fill m f n) := by
  intro e he
  rcases Memory.mem_fill he with ⟨k, -, rfl⟩ | he
  · exact hf k
  · exact h e he

/-- R170: the samples of a layout that fits have their cells in the plane memories. -/
theorem len_le_of_layoutFits {s : State} (h : s.layoutFits = true) (p : Plane) :
    (s.regs.layout.get p).len.toNat ≤ s.cfg.fbBytes := by
  simp only [State.layoutFits, PlaneRange.fits, Bool.and_eq_true, decide_eq_true_eq] at h
  obtain ⟨⟨⟨hy, -⟩, hcb, -⟩, hcr, -⟩ := h
  cases p
  · exact hy
  · exact hcb
  · exact hcr

/-- R170, R172: `EXT` fills cells that exist with bytes. -/
theorem memoriesOk_extract {s : State} (h : s.memoriesOk) (hfit : s.layoutFits = true) (side : Side) :
    (s.extract side).memoriesOk := by
  obtain ⟨hfb, hpl⟩ := h
  refine ⟨hfb, fun t p => ?_⟩
  by_cases ht : t = side
  · subst ht
    obtain ⟨hwf, hbelow, hbytes⟩ := hpl t p
    simp only [State.extract_pl, State.extract_cfg, Sides.get_set_same, Planes.get_tabulate]
    exact ⟨Memory.wf_fill hwf _ _, Memory.below_fill hbelow _ (len_le_of_layoutFits hfit p),
      Memory.bytesOnly_fill hbytes (fun k => sampleAt_le ..) _⟩
  · simpa [Sides.get_set_other _ _ ht] using hpl t p

/-- The canonical form of the memories is closed under every elementary change of a command: `EXT` alone writes one. -/
theorem kept_memoriesOk : Kept State.memoriesOk where
  fault _ _ _ _ h _ _ := h
  reset _ h := h
  opened _ _ h _ := h
  extracted side _ h _ hfit := memoriesOk_extract h hfit side
  scored s h _ _ _ _ _ := by
    rcases s.scored_cases with hs | hs <;> exact hs ▸ memoriesOk_withRegs h _
  finished _ h _ _ := h

/-- Settles O55: beside the commands, a host write places a byte in a cell that exists and hardware reset empties the
memories. -/
theorem stepKeepsMemoriesOk : Obligations.StepKeepsMemoriesOk := by
  intro s t hs hstep
  refine kept_memoriesOk.step ?port ?write ?answer ?fb ?reset hs hstep
  case port => exact fun _ _ h => h
  case write => exact fun _ _ _ h => h
  case answer => exact fun _ _ h => h
  case fb => exact fun _ _ _ v h ha => memoriesOk_writeFb h ha v
  case reset => exact fun _ _ => memoriesOk_of_empty rfl rfl

/-! ### The accumulators -/

@[simp] theorem Regs.write_psnr (r : Regs) (i : Fin 64) (v : Word) : (r.write i v).psnr = r.psnr :=
  (congrArg Regs.psnr (r.withoutHostRegs_write i v) :)

@[simp] theorem Regs.write_frameIdx (r : Regs) (i : Fin 64) (v : Word) : (r.write i v).frameIdx = r.frameIdx :=
  (congrArg Regs.frameIdx (r.withoutHostRegs_write i v) :)

@[simp] theorem Regs.write_used (r : Regs) (i : Fin 64) (v : Word) : (r.write i v).used = r.used :=
  (congrArg Regs.used (r.withoutHostRegs_write i v) :)

@[simp] theorem Regs.write_sum (r : Regs) (i : Fin 64) (v : Word) : (r.write i v).sum = r.sum :=
  (congrArg Regs.sum (r.withoutHostRegs_write i v) :)

@[simp] theorem Regs.write_nans (r : Regs) (i : Fin 64) (v : Word) : (r.write i v).nans = r.nans :=
  (congrArg Regs.nans (r.withoutHostRegs_write i v) :)

@[simp] theorem Regs.write_mean (r : Regs) (i : Fin 64) (v : Word) : (r.write i v).mean = r.mean :=
  (congrArg Regs.mean (r.withoutHostRegs_write i v) :)

/-- R197: the greatest quotient that any plane can reach has fewer than 36983 digits. -/
theorem peak_pow_lt : (65025 * (2 ^ 32 - 1) : Nat) ^ 2560 < 10 ^ 36982 := by decide +kernel

/-- R197: no length that a register holds has a `psnr_q` above 36981. -/
theorem psnrQ_le (sse : Nat) {n : Nat} (hn : n < 2 ^ 32) : psnrQ sse n ≤ 36981 := by
  have hpow : (65025 * n) ^ 2560 ≤ (65025 * (2 ^ 32 - 1)) ^ 2560 := pow_le_pow_left₀ (Nat.zero_le _) (by omega) _
  have hquot : (65025 * n) ^ 2560 / sse ^ 2560 < 10 ^ 36982 :=
    Nat.lt_of_le_of_lt ((Nat.div_le_self _ _).trans hpow) peak_pow_lt
  exact Nat.le_of_lt_succ (Nat.log_lt_of_lt_pow' (by simp) hquot)

/-- R45: a number that a PSNR word can hold is legal. -/
theorem psnrLegal_ofNat {q : Nat} (h : q ≤ 36981) : psnrLegal (BitVec.ofNat 32 q) :=
  .inr ((BitVec.toNat_ofNat q 32).trans_le ((Nat.mod_le _ _).trans h))

/-- R45: the sentinel is no number. -/
theorem ofNat_ne_nanWord {q : Nat} (h : q ≤ 36981) : BitVec.ofNat 32 q ≠ nanWord := by
  intro heq
  have := congrArg BitVec.toNat heq
  simp only [BitVec.toNat_ofNat, nanWord] at this
  omega

/-- R45: the `Q` of a legal word that is not the sentinel. -/
theorem qField_le {v : Word} (h : psnrLegal v) (hnan : isNan v = false) : (qField v).toNat ≤ 36981 := by
  rcases h with rfl | h
  · cases hnan
  · exact (qField_of_le h).trans_le h

/-- R198: the word of a plane is legal. -/
theorem psnrLegal_psnrWord (sse : Nat) {n : Nat} (hn : n < 2 ^ 32) : psnrLegal (psnrWord sse n) := by
  unfold psnrWord
  split
  · exact .inl rfl
  · exact psnrLegal_ofNat (psnrQ_le sse hn)

/-- R199: the composite of three legal words is the sentinel exactly when one of them is, and a number up to 36981
otherwise. -/
theorem compositeQ_legal {vy vcb vcr : Word} (hy : psnrLegal vy) (hcb : psnrLegal vcb) (hcr : psnrLegal vcr) :
    psnrLegal (compositeQ vy vcb vcr) ∧ isNan (compositeQ vy vcb vcr) = (isNan vy || isNan vcb || isNan vcr) := by
  unfold compositeQ
  split
  · rename_i hnan
    exact ⟨.inl rfl, hnan.symm⟩
  · rename_i hnan
    simp only [Bool.not_eq_true, Bool.or_eq_false_iff] at hnan
    obtain ⟨⟨hny, hncb⟩, hncr⟩ := hnan
    have hyle := qField_le hy hny
    have hcble := qField_le hcb hncb
    have hcrle := qField_le hcr hncr
    have hq : (6 * (qField vy).toNat + (qField vcb).toNat + (qField vcr).toNat) / 8 ≤ 36981 := by omega
    refine ⟨psnrLegal_ofNat hq, ?_⟩
    rw [hny, hncb, hncr]
    exact beq_false_of_ne (ofNat_ne_nanWord hq)

/-- R190: the word of a plane of the frame pair is legal. -/
theorem psnrLegal_planeWord (s : State) (p : Plane) : psnrLegal (s.planeWord p) :=
  psnrLegal_psnrWord _ (BitVec.isLt _)

/-- R190, R199: the composite of the frame pair is legal, and the sentinel exactly when a plane's word is. -/
theorem framePsnr_composite (s : State) :
    psnrLegal s.framePsnr.c ∧
      isNan s.framePsnr.c = (isNan s.framePsnr.y || isNan s.framePsnr.cb || isNan s.framePsnr.cr) :=
  compositeQ_legal (psnrLegal_planeWord s .y) (psnrLegal_planeWord s .cb) (psnrLegal_planeWord s .cr)

/-- R190: the four words of the frame pair are legal. -/
theorem seriesLegal_framePsnr (s : State) : seriesLegal s.framePsnr :=
  ⟨psnrLegal_planeWord s .y, psnrLegal_planeWord s .cb, psnrLegal_planeWord s .cr, (framePsnr_composite s).1⟩

/-- R200: one more used frame adds at most 36981 to a sum. -/
theorem sumAfter_le {sum : Sum48} {v : Word} {n : Nat} (hsum : sum.toNat ≤ 36981 * n) (hv : psnrLegal v) :
    (sumAfter sum v).toNat ≤ 36981 * (n + 1) := by
  unfold sumAfter
  split
  · omega
  · rename_i hnan
    have hq := qField_le hv (Bool.not_eq_true _ ▸ hnan)
    have hadd : (sum + (qField v).setWidth 48).toNat ≤ sum.toNat + ((qField v).setWidth 48).toNat :=
      (BitVec.toNat_add _ _).trans_le (Nat.mod_le _ _)
    have hwidth : ((qField v).setWidth 48).toNat ≤ (qField v).toNat :=
      (BitVec.toNat_setWidth _ _).trans_le (Nat.mod_le _ _)
    omega

/-- R203: the mean of a bounded sum is a legal word. -/
theorem psnrLegal_meanWord {sum : Sum48} {used : Word} (nan : Bool) (h : sum.toNat ≤ 36981 * used.toNat) :
    psnrLegal (meanWord sum used nan) := by
  unfold meanWord
  split
  · exact .inl rfl
  · exact psnrLegal_ofNat (Nat.div_le_of_le_mul (h.trans_eq (Nat.mul_comm _ _)))

/-- R192: a counter that is not at its maximum counts one more. -/
theorem toNat_add_one_of_ne_max {x : Word} (h : x ≠ 0xFFFFFFFF#32) : (x + 1#32).toNat = x.toNat + 1 := by
  bv_omega

/-- The accumulator invariant speaks of five registers alone. -/
theorem State.CountersOk.of_same {s t : State} (h : s.CountersOk) (hmetric : sameMetric s t) : t.CountersOk := by
  obtain ⟨-, hpsnr, hidx, hused, hsum, hnans, hmean⟩ := hmetric
  constructor
  case counts => rw [hused, hidx]; exact h.counts
  case sums => rw [hsum, hused]; exact h.sums
  case composite => rw [hnans]; exact h.composite
  case psnr => rw [hpsnr]; exact h.psnr
  case mean => rw [hmean]; exact h.mean

/-- R139: an opened session starts its accumulators at 0. -/
theorem countersOk_openSession (s : State) (d : Word) (wh : Nat) : (s.withRegs (s.regs.openSession d wh)).CountersOk := by
  constructor <;> simp [sumsBounded, seriesLegal, psnrLegal]

/-- R193: a skipped frame is counted and adds to no sum. -/
theorem State.CountersOk.skipFrame {s : State} (h : s.CountersOk) (hidx : s.regs.frameIdx ≠ 0xFFFFFFFF#32) :
    (s.withRegs s.regs.skipFrame).CountersOk := by
  refine ⟨?_, h.sums, h.composite, h.psnr, h.mean⟩
  rw [State.withRegs_regs, Regs.skipFrame_used, Regs.skipFrame_frameIdx, toNat_add_one_of_ne_max hidx]
  exact Nat.le_succ_of_le h.counts

/-- R200: a used frame with legal words adds at most 36981 to each sum. -/
theorem State.CountersOk.useFrame {s : State} (h : s.CountersOk) (hidx : s.regs.frameIdx ≠ 0xFFFFFFFF#32)
    (e : Planes Nat) {v : Series Word} (hv : seriesLegal v)
    (hc : isNan v.c = (isNan v.y || isNan v.cb || isNan v.cr)) : (s.withRegs (s.regs.useFrame e v)).CountersOk := by
  have hcounts := h.counts
  have hidx' := toNat_add_one_of_ne_max hidx
  have hused' : (s.regs.used + 1#32).toNat = s.regs.used.toNat + 1 := by bv_omega
  constructor
  case counts => simp only [State.withRegs_regs, Regs.useFrame_used, Regs.useFrame_frameIdx]; omega
  case sums =>
    obtain ⟨hsy, hscb, hscr, hsc⟩ := h.sums
    obtain ⟨hvy, hvcb, hvcr, hvc⟩ := hv
    simp only [State.withRegs_regs, Regs.useFrame_sum, Regs.useFrame_used, Series.zip, sumsBounded, hused']
    exact ⟨sumAfter_le hsy hvy, sumAfter_le hscb hvcb, sumAfter_le hscr hvcr, sumAfter_le hsc hvc⟩
  case composite =>
    simp only [State.withRegs_regs, Regs.useFrame_nans, Series.zip, nanAfter, h.composite, hc]
    ac_rfl
  case psnr => exact hv
  case mean => exact h.mean

/-- R203: `FIN` writes legal means. -/
theorem State.CountersOk.finish {s : State} (h : s.CountersOk) : (s.withRegs s.regs.finish).CountersOk := by
  obtain ⟨hsy, hscb, hscr, hsc⟩ := h.sums
  exact ⟨h.counts, h.sums, h.composite, h.psnr, psnrLegal_meanWord _ hsy, psnrLegal_meanWord _ hscb,
    psnrLegal_meanWord _ hscr, psnrLegal_meanWord _ hsc⟩

/-- The accumulator invariant is closed under every elementary change of a command. -/
theorem kept_countersOk : Kept State.CountersOk where
  fault _ _ _ _ h _ _ := h.of_same ⟨rfl, rfl, rfl, rfl, rfl, rfl, rfl⟩
  reset _ _ := countersOk_of_zero rfl
  opened _ s _ _ := countersOk_openSession s _ _
  extracted _ _ h _ _ := h.of_same ⟨rfl, rfl, rfl, rfl, rfl, rfl, rfl⟩
  scored s h _ _ _ hidx _ := by
    rcases s.scored_cases with hs | hs
    · exact hs ▸ h.skipFrame hidx
    · exact hs ▸ h.useFrame hidx _ (seriesLegal_framePsnr s) (framePsnr_composite s).2
  finished _ h _ _ := h.finish

/-- Settles O57: what the host does beside its commands touches no accumulator, or clears all registers. -/
theorem stepKeepsCountersOk : Obligations.StepKeepsCountersOk := by
  intro s t hs hstep
  refine kept_countersOk.step ?port ?write ?answer ?fb ?reset hs hstep
  case port => exact fun _ _ h => h.of_same ⟨rfl, rfl, rfl, rfl, rfl, rfl, rfl⟩
  case write => exact fun _ _ _ h => h.of_same (by simp [sameMetric])
  case answer => exact fun _ _ h => h.of_same ⟨rfl, rfl, rfl, rfl, rfl, rfl, rfl⟩
  case fb => exact fun _ _ _ _ h _ => h.of_same ⟨rfl, rfl, rfl, rfl, rfl, rfl, rfl⟩
  case reset => exact fun _ _ => countersOk_of_zero rfl

/-! ### The phase -/

/-- R261: the codes are 1 to 9. -/
theorem faultNumber_range (code : FaultCode) : faultNumber code ≠ 0#8 ∧ (faultNumber code).toNat ≤ 9 := by
  cases code <;> decide

/-- R262: fault entry records a cause of R261 with its selector. -/
theorem phaseOk_enterFault (s : State) {code : FaultCode} {sel : BitVec 1} (info : Word) (hsel : selectorOk code sel) :
    (s.enterFault code sel info).PhaseOk := by
  obtain ⟨hne, hle⟩ := faultNumber_range code
  constructor
  case recorded => simpa using hne
  case codes => exact hle
  case selector => exact fun h => (hsel h).imp (congrArg faultNumber) (congrArg faultNumber)
  case clean => simp
  case idle => simp
  case means => simp

/-- R233: a command that works outside FAULTED and ends in READY or DONE leaves the fault record clean; in READY there
are no means. -/
theorem State.PhaseOk.of_working {s t : State} (h : s.PhaseOk) (hopen : s.regs.phase ≠ .faulted)
    (hrecord : sameFaultRecord s t) (hphase : t.regs.phase = .ready ∨ t.regs.phase = .done)
    (hmeans : t.regs.phase = .ready → t.regs.mean = ⟨0#32, 0#32, 0#32, 0#32⟩) : t.PhaseOk := by
  obtain ⟨hcode, hsel, hinfo⟩ := hrecord
  obtain ⟨hsel0, hinfo0⟩ := h.clean hopen
  have hcode0 : t.regs.causeCode = 0#8 := by
    rw [hcode]
    exact not_not.mp (mt h.recorded.mpr hopen)
  have hnf : t.regs.phase ≠ .faulted := by rcases hphase with hp | hp <;> simp [hp]
  have hni : t.regs.phase ≠ .idle := by rcases hphase with hp | hp <;> simp [hp]
  constructor
  case recorded => simp [hnf, hcode0]
  case codes => simp [hcode0]
  case selector => simp [hsel, hsel0]
  case clean => exact fun _ => ⟨hsel.trans hsel0, hinfo.trans hinfo0⟩
  case idle => exact fun hi => absurd hi hni
  case means => exact hmeans

/-- The phase invariant speaks of the registers, the host's own excepted. -/
theorem State.PhaseOk.of_withoutHostRegs {s t : State} (h : s.PhaseOk)
    (hregs : t.regs.withoutHostRegs = s.regs.withoutHostRegs) : t.PhaseOk := by
  have hphase : t.regs.phase = s.regs.phase := (congrArg Regs.phase hregs :)
  have hcode : t.regs.causeCode = s.regs.causeCode := (congrArg Regs.causeCode hregs :)
  have hsel : t.regs.causeSel = s.regs.causeSel := (congrArg Regs.causeSel hregs :)
  have hinfo : t.regs.finfo = s.regs.finfo := (congrArg Regs.finfo hregs :)
  have hmean : t.regs.mean = s.regs.mean := (congrArg Regs.mean hregs :)
  constructor
  case recorded => rw [hphase, hcode]; exact h.recorded
  case codes => rw [hcode]; exact h.codes
  case selector => rw [hsel, hcode]; exact h.selector
  case clean => rw [hphase, hsel, hinfo]; exact h.clean
  case idle => rw [hphase, hregs]; exact h.idle
  case means => rw [hphase, hmean]; exact h.means

/-- The phase invariant is closed under every elementary change of a command. -/
theorem kept_phaseOk : Kept State.PhaseOk where
  fault s _ _ info _ _ hsel := phaseOk_enterFault s info hsel
  reset _ _ := phaseOk_of_zero rfl
  opened _ _ h hpass := h.of_working hpass.open_ ⟨rfl, rfl, rfl⟩ (.inl rfl) fun _ => rfl
  extracted _ _ h hready _ := h.of_working (by simp [hready]) ⟨rfl, rfl, rfl⟩ (.inl hready) h.means
  scored s h hready _ _ _ _ := by
    have hopen : s.regs.phase ≠ .faulted := by simp [hready]
    rcases s.scored_cases with hs | hs <;>
      exact hs ▸ h.of_working hopen ⟨rfl, rfl, rfl⟩ (.inl hready) h.means
  finished _ h hready _ := h.of_working (by simp [hready]) ⟨rfl, rfl, rfl⟩ (.inr rfl) nofun

/-- Settles O58: what the host does beside its commands writes the host's own registers at most, or clears all. -/
theorem stepKeepsPhaseOk : Obligations.StepKeepsPhaseOk := by
  intro s t hs hstep
  refine kept_phaseOk.step ?port ?write ?answer ?fb ?reset hs hstep
  case port => exact fun _ _ h => h.of_withoutHostRegs rfl
  case write => exact fun u i v h => h.of_withoutHostRegs (u.regs.withoutHostRegs_write i v)
  case answer => exact fun _ _ h => h.of_withoutHostRegs rfl
  case fb => exact fun _ _ _ _ h _ => h.of_withoutHostRegs rfl
  case reset => exact fun _ _ => phaseOk_of_zero rfl

/-! ### The register map -/

@[simp] theorem Regs.write_width (r : Regs) (i : Fin 64) (v : Word) :
    (r.write i v).width = if i.val = 4 then v.extractLsb' 0 16 else r.width := by
  unfold Regs.write
  split <;> simp_all

@[simp] theorem Regs.write_height (r : Regs) (i : Fin 64) (v : Word) :
    (r.write i v).height = if i.val = 5 then v.extractLsb' 0 16 else r.height := by
  unfold Regs.write
  split <;> simp_all

@[simp] theorem Regs.write_fmtIn (r : Regs) (i : Fin 64) (v : Word) :
    (r.write i v).fmtIn = if i.val = 6 then v.extractLsb' 0 8 else r.fmtIn := by
  unfold Regs.write
  split <;> simp_all

@[simp] theorem Regs.write_fmtOut (r : Regs) (i : Fin 64) (v : Word) :
    (r.write i v).fmtOut = if i.val = 7 then v.extractLsb' 0 8 else r.fmtOut := by
  unfold Regs.write
  split <;> simp_all

@[simp] theorem Regs.write_lenBytes_a (r : Regs) (i : Fin 64) (v : Word) :
    (r.write i v).lenBytes.a = if i.val = 8 then v else r.lenBytes.a := by
  unfold Regs.write
  split <;> simp_all [Sides.set]

@[simp] theorem Regs.write_lenBytes_b (r : Regs) (i : Fin 64) (v : Word) :
    (r.write i v).lenBytes.b = if i.val = 9 then v else r.lenBytes.b := by
  unfold Regs.write
  split <;> simp_all [Sides.set]

/-- R40: a write of any index but those of the six read-write registers is ignored. -/
theorem Regs.write_eq_self (r : Regs) {i : Fin 64} (v : Word) (hi : i.val < 4 ∨ 9 < i.val) : r.write i v = r := by
  obtain ⟨i, hlt⟩ := i
  simp only at hi
  rcases hi with hi | hi <;> interval_cases i <;> rfl

/-- R22: the read-write registers alone are read from the host's own registers. -/
theorem Regs.read_withoutHostRegs (r : Regs) {j : Fin 64} (hj : j.val < 4 ∨ 9 < j.val) :
    r.withoutHostRegs.read j = r.read j := by
  obtain ⟨j, hlt⟩ := j
  simp only at hj
  rcases hj with hj | hj <;> interval_cases j <;> rfl

/-- R22: a host write leaves every other register word. -/
theorem Regs.read_write_other (r : Regs) {i j : Fin 64} (v : Word) (hji : j ≠ i) : (r.write i v).read j = r.read j := by
  have hval : i.val ≠ j.val := fun h => hji (Fin.ext h.symm)
  by_cases hj : j.val < 4 ∨ 9 < j.val
  · rw [← Regs.read_withoutHostRegs _ hj, Regs.withoutHostRegs_write, Regs.read_withoutHostRegs _ hj]
  · obtain ⟨j, hlt⟩ := j
    simp only at hj hval
    obtain ⟨h4, h9⟩ : 4 ≤ j ∧ j ≤ 9 := by omega
    interval_cases j <;> simp [Regs.read, hval]

/-- The low bits of a word, zero-extended, are the word under a mask. -/
theorem setWidth_extractLsb'_low (v : Word) (n : Nat) :
    (v.extractLsb' 0 n).setWidth 32 = v &&& BitVec.ofNat 32 (2 ^ n - 1) := by
  ext k hk
  simp [← BitVec.getLsbD_eq_getElem, BitVec.getLsbD_ofNat, Nat.testBit_two_pow_sub_one, hk, Bool.and_comm]

/-- R26, R27, R28: what a read-write register reads after a host write of it. -/
theorem Regs.read_write_same (r : Regs) {i : Fin 64} (v : Word) (hi : 4 ≤ i.val ∧ i.val ≤ 9) :
    (r.write i v).read i = if i.val ≤ 5 then v &&& 0xFFFF#32 else if i.val ≤ 7 then v &&& 0xFF#32 else v := by
  obtain ⟨i, hlt⟩ := i
  obtain ⟨h4, h9⟩ := hi
  simp only at h4 h9
  interval_cases i
  · exact setWidth_extractLsb'_low v 16
  · exact setWidth_extractLsb'_low v 16
  · exact setWidth_extractLsb'_low v 8
  · exact setWidth_extractLsb'_low v 8
  · rfl
  · rfl

/-- Settles O10: the step is `Regs.write` alone, which reaches the register it names and no other word. -/
theorem hostWritesReadWriteRegisters : Obligations.HostWritesReadWriteRegisters := by
  intro s i v rest hport hi
  have hne : i ≠ 0 := fun h => by simp [h] at hi
  exact ⟨_, (step_of_port hport).trans (perform_writeReg hne v _), s.regs.read_write_same v hi,
    fun _ hj => s.regs.read_write_other v hj, ⟨fun _ _ => rfl, fun _ _ _ => rfl⟩, rfl, rfl, rfl, rfl⟩

/-- R22: the reserved registers read 0. -/
theorem Regs.read_reserved (r : Regs) {i : Fin 64} (hi : (10 ≤ i.val ∧ i.val ≤ 15) ∨ i.val = 31 ∨ 57 ≤ i.val) :
    r.read i = 0#32 := by
  obtain ⟨i, hlt⟩ := i
  simp only at hi
  rcases hi with ⟨hlo, hhi⟩ | rfl | hi
  · interval_cases i <;> rfl
  · rfl
  · interval_cases i <;> rfl

/-- R40: a host write of a reserved or read-only register changes nothing. -/
theorem step_writeReg_ignored {s : State} {i : Fin 64} {v : Word} {rest : List Access}
    (hport : s.port = .writeReg i v :: rest) (hne : i ≠ 0) (hi : i.val < 4 ∨ 9 < i.val) :
    step s = .next { s with port := rest } := by
  rw [step_of_port hport, perform_writeReg hne, Regs.write_eq_self _ v hi]
  rfl

/-- Settles O11: the words held in parts are read by `Laws/Registers`, the others are one field each. -/
theorem reservedAndReadOnlyRegisters : Obligations.ReservedAndReadOnlyRegisters := by
  refine ⟨?reserved, ?ignored, ?reading, ?parts, ?fields, ?sums⟩
  case reserved => exact fun r _ hi => r.read_reserved hi
  case ignored => exact fun _ _ _ _ => step_writeReg_ignored
  case reading => exact fun _ _ _ hport => step_of_port hport
  case parts =>
    intro r
    obtain ⟨hpva, hpvb, hskipped, hwarn, hstatus⟩ := statusWord_flags r
    obtain ⟨hcode, hsel, hcause⟩ := causeWord_fields r
    exact ⟨(statusWord_phase r).trans (by cases r.phase <;> rfl), hpva, hpvb, hskipped, hwarn, hstatus, hcode, hsel,
      hcause, nansWord_bits r⟩
  case fields =>
    intro r
    have hsize (x : BitVec 16) : (x.setWidth 32).toNat = x.toNat := BitVec.toNat_setWidth_of_le (by decide)
    have htag (x : Tag) : (x.setWidth 32).toNat = x.toNat := BitVec.toNat_setWidth_of_le (by decide)
    have hstride (x : BitVec 3) : (x.setWidth 32).toNat = x.toNat := BitVec.toNat_setWidth_of_le (by decide)
    exact ⟨rfl, hsize _, hsize _, htag _, htag _, rfl, rfl, rfl, rfl, rfl, rfl, hstride _, rfl, rfl, rfl, hstride _, rfl,
      rfl, rfl, hstride _, rfl, rfl, rfl, rfl, rfl, rfl, rfl, rfl, rfl, rfl, rfl, rfl⟩
  case sums =>
    intro r
    exact ⟨hiWord_loWord _, hiWord_loWord _, hiWord_loWord _, hiWord_loWord _, hiWord_loWord _, hiWord_loWord _,
      hiWord_loWord _⟩

/-! ### What an instruction leaves alone -/

/-- The rows that open a session are `INIT` with some tag. -/
theorem exec_eq_initWith {i : Instr} (hi : opensSession i = true) (s : State) : ∃ tag, exec i s = initWith tag s := by
  cases i with
  | init => exact ⟨s.regs.fmtIn, rfl⟩
  | yv12 => exact ⟨0#8, rfl⟩
  | iyuv => exact ⟨1#8, rfl⟩
  | nv12 => exact ⟨2#8, rfl⟩
  | uyvy => exact ⟨3#8, rfl⟩
  | yvyu => exact ⟨4#8, rfl⟩
  | yuy2 => exact ⟨5#8, rfl⟩
  | y422 => exact ⟨6#8, rfl⟩
  | _ => cases hi

/-- The registers that the host and `INIT` write, and no command of an open session, are the same in `s` and `t`. -/
def sameSetup (s t : State) : Prop := sameHostRegs s t ∧ sameLayout s t

theorem sameSetup_refl (s : State) : sameSetup s s := ⟨⟨rfl, rfl, rfl, rfl, rfl⟩, rfl, rfl, rfl, rfl⟩

theorem sameSetup.trans {s t u : State} (h1 : sameSetup s t) (h2 : sameSetup t u) : sameSetup s u := by
  obtain ⟨⟨hw1, hh1, hi1, ho1, hl1⟩, hd1, hf1, hr1, hz1⟩ := h1
  obtain ⟨⟨hw2, hh2, hi2, ho2, hl2⟩, hd2, hf2, hr2, hz2⟩ := h2
  exact ⟨⟨hw2.trans hw1, hh2.trans hh1, hi2.trans hi1, ho2.trans ho1, hl2.trans hl1⟩, hd2.trans hd1, hf2.trans hf1,
    hr2.trans hr1, hz2.trans hz1⟩

/-- R130: `INIT` writes none of the host's registers and no plane. -/
theorem initWith_frame {tag : Tag} {s t : State} (h : initWith tag s = .next t) :
    sameHostRegs s t ∧ ∀ side, samePlanesOf side s t := by
  obtain ⟨u, hu, hcases⟩ := initWith_cases tag s
  obtain rfl : u = t := by simpa [hu] using h
  rcases hcases with ⟨-, rfl⟩ | ⟨-, _, _, _, -, rfl⟩ | ⟨-, rfl⟩ <;>
    exact ⟨⟨rfl, rfl, rfl, rfl, rfl⟩, fun _ _ _ => rfl⟩

/-- R105, R107: a row that only raises a fault writes the fault record. -/
theorem raised_frame {s t : State} {code : FaultCode} {sel : BitVec 1} {info : Word}
    (h : unlessFaulted s (raise s code sel info) = .next t) : sameSetup s t ∧ ∀ side, samePlanesOf side s t := by
  rcases unlessFaulted_next h with ⟨-, rfl⟩ | ⟨-, h⟩
  · exact ⟨sameSetup_refl _, fun _ _ _ => rfl⟩
  · cases h
    exact ⟨sameSetup_refl _, fun _ _ _ => rfl⟩

/-- R170: `EXT` writes the planes of its own side alone. -/
theorem execExt_frame {side : Side} {s t : State} (h : execExt side s = .next t) :
    sameSetup s t ∧ ∀ other, other ≠ side → samePlanesOf other s t := by
  rcases execExt_next h with ⟨-, rfl⟩ | ⟨-, _, _, _, -, rfl⟩ | ⟨-, -, -, rfl⟩
  · exact ⟨sameSetup_refl _, fun _ _ _ _ => rfl⟩
  · exact ⟨sameSetup_refl _, fun _ _ _ _ => rfl⟩
  · exact ⟨sameSetup_refl _, fun other hne p k => (readPl_extract s side other p k).trans (if_neg fun h => hne h.1)⟩

/-- R190: `SCORE` writes no plane. -/
theorem execScore_frame {s t : State} (h : execScore s = .next t) :
    sameSetup s t ∧ ∀ side, samePlanesOf side s t := by
  rcases execScore_next h with ⟨-, rfl⟩ | ⟨-, _, _, _, -, rfl⟩ | ⟨-, -, -, -, -, rfl⟩
  · exact ⟨sameSetup_refl _, fun _ _ _ => rfl⟩
  · exact ⟨sameSetup_refl _, fun _ _ _ => rfl⟩
  · rcases s.scored_cases with hs | hs <;> exact hs ▸ ⟨sameSetup_refl s, fun _ _ _ => rfl⟩

/-- R202: `FIN` writes no plane. -/
theorem execFin_frame {s t : State} (h : execFin s = .next t) :
    sameSetup s t ∧ ∀ side, samePlanesOf side s t := by
  rcases execFin_next h with ⟨-, rfl⟩ | ⟨-, _, _, _, -, rfl⟩ | ⟨-, -, rfl⟩ <;>
    exact ⟨sameSetup_refl _, fun _ _ _ => rfl⟩

/-- R26 to R33: every row but `SRST` and those that open a session leaves the setup alone. -/
theorem exec_sameSetup {i : Instr} {s t : State} (hsrst : i ≠ .srst) (hopens : opensSession i = false)
    (h : exec i s = .next t) : sameSetup s t := by
  cases i with
  | nop => cases h; exact sameSetup_refl _
  | ext side => exact (execExt_frame h).1
  | score => exact (execScore_frame h).1
  | fin => exact (execFin_frame h).1
  | srst => exact absurd rfl hsrst
  | frame =>
    obtain ⟨u, v, ha, hb, hscore⟩ := execFrame_next h
    exact ((execExt_frame ha).1.trans (execExt_frame hb).1).trans (execScore_frame hscore).1
  | illegal _ => exact (raised_frame h).1
  | unsupportedTag _ _ => exact (raised_frame h).1
  | _ => cases hopens

/-- R83: every row but those that extract a side leaves its planes alone. -/
theorem exec_samePlanesOf {i : Instr} {side : Side} {s t : State} (hext : extracts i side = false)
    (h : exec i s = .next t) : samePlanesOf side s t := by
  by_cases hopens : opensSession i = true
  · obtain ⟨tag, hinit⟩ := exec_eq_initWith hopens s
    exact (initWith_frame (hinit.symm.trans h)).2 side
  cases i with
  | nop => cases h; exact fun _ _ => rfl
  | ext other => exact (execExt_frame h).2 side fun heq => by simp [extracts, heq] at hext
  | score => exact (execScore_frame h).2 side
  | fin => exact (execFin_frame h).2 side
  | srst => cases h; exact fun _ _ => rfl
  | frame => cases hext
  | illegal _ => exact (raised_frame h).2 side
  | unsupportedTag _ _ => exact (raised_frame h).2 side
  | _ => exact absurd rfl hopens

/-- R71, R83: no elementary change of a command reaches a frame buffer or the model's own fields. -/
theorem kept_frameBuffers (s : State) : Kept fun t => t.fb = s.fb ∧ samePort s t where
  fault _ _ _ _ h _ _ := h
  reset _ h := h
  opened _ _ h _ := h
  extracted _ _ h _ _ := h
  scored u h _ _ _ _ _ := by rcases u.scored_cases with hu | hu <;> exact hu ▸ h
  finished _ h _ _ := h

/-- Settles O24: the frame buffers and the port by `kept_frameBuffers`, the rest row by row. -/
theorem whatInstructionsLeaveAlone : Obligations.WhatInstructionsLeaveAlone := by
  intro i s t h
  obtain ⟨hfb, hcfg, hpower, hcells⟩ := (kept_frameBuffers s).exec i ⟨rfl, rfl, rfl, rfl, rfl⟩ h
  refine ⟨fun side a => by simp [State.readFb, hfb, hpower], ⟨hcfg, hpower, hcells⟩, fun hsrst => ?_,
    fun hsrst hopens => (exec_sameSetup hsrst hopens h).2, fun _ hext => exec_samePlanesOf hext h⟩
  by_cases hopens : opensSession i = true
  · obtain ⟨tag, hinit⟩ := exec_eq_initWith hopens s
    exact (initWith_frame (hinit.symm.trans h)).1
  · exact (exec_sameSetup hsrst (Bool.not_eq_true _ ▸ hopens) h).1

/-! ### The write of `CMD` -/

/-- R103, R104: the table of operations holds well-formed commands. -/
theorem commandOfOp_wf {op : BitVec 8} {side : Bool} {i : Instr} (h : commandOfOp op side = some i) : i.wf = true := by
  unfold commandOfOp at h
  split_ifs at h <;> (cases h; rfl)

/-- R103: what the seven legal words decode to. -/
theorem decodeCmd_legalWords :
    legalWords.map decodeCmd = [.nop, .init, .ext .a, .ext .b, .score, .fin, .srst] := by decide

/-- R105: no legal word decodes to an illegal command. -/
theorem decodeCmd_ne_illegal {c : Word} (hc : c ∈ legalWords) (w : Word) : decodeCmd c ≠ .illegal w := by
  have hmem : decodeCmd c ∈ legalWords.map decodeCmd := List.mem_map_of_mem hc
  intro h
  simp [decodeCmd_legalWords, h] at hmem

/-- R104: a command word decodes to an operation of the table, or it is illegal. -/
theorem decodeCmd_cases (c : Word) :
    decodeCmd c = .illegal c ∨ commandOfOp (opField c) (sideField c) = some (decodeCmd c) := by
  unfold decodeCmd
  split
  · exact .inl rfl
  split
  · exact .inl rfl
  rename_i i hi
  split
  · exact .inl rfl
  · exact .inr hi

/-- R104, R105: every command word decodes to a well-formed instruction. -/
theorem decodeCmd_wf (c : Word) : (decodeCmd c).wf = true := by
  rcases decodeCmd_cases c with h | h
  · have hc : c ∉ legalWords := fun hmem => decodeCmd_ne_illegal hmem c h
    simpa [h, Instr.wf] using hc
  · exact commandOfOp_wf h

/-- Settles O7: index 0 is `CMD`, whose write is `exec` of the decoded word, and no register holds the word. -/
theorem stepRunsTheDecodedCommand : Obligations.StepRunsTheDecodedCommand :=
  ⟨fun _ c _ hport => ⟨step_of_port hport, decodeCmd_wf c⟩, fun _ => rfl⟩

end Sys2Proof.Machine
end

section
/-! PROOFS. The host's accesses to memory cells (20_memory.md R70, R72, R75) and the line `LOAD` (30_encoding.md R112). -/

namespace Sys2Proof.Machine

/-! ### One access to a cell -/

/-- R75: a host write of a byte that exists writes the byte and goes on. -/
theorem perform_writeFb (s : State) (side : Side) {a : Nat} (v : Byte) (ha : a < s.cfg.fbBytes) :
    perform (.writeFb side a v) s = .next (s.writeFb side a v) := if_pos ha

/-- R75: a host read of a byte that exists answers the byte. -/
theorem perform_readFb (s : State) (side : Side) {a : Nat} (ha : a < s.cfg.fbBytes) :
    perform (.readFb side a) s = .next (s.answering (.byte (s.readFb side a))) := if_pos ha

/-- R75: a host read of a sample that exists answers the sample. -/
theorem perform_readPl (s : State) (side : Side) (p : Plane) {k : Nat} (hk : k < s.cfg.fbBytes) :
    perform (.readPl side p k) s = .next (s.answering (.sample (s.readPl side p k))) := if_pos hk

/-- Settles O12: each access is one event within the capacity; `readFb_writeFb` says which byte a write moves. -/
theorem hostAccessesMemoryCells : Obligations.HostAccessesMemoryCells := by
  refine ⟨?write, ?readByte, ?readSample⟩
  case write =>
    intro s side a v rest hport ha
    have hread := readFb_writeFb { s with port := rest } side (a := a) (v := v)
    exact ⟨_, (step_of_port hport).trans (perform_writeFb _ side v ha), (hread side a).trans (if_pos ⟨rfl, rfl⟩),
      fun other c hother => (hread other c).trans (if_neg hother), fun _ _ _ => rfl, rfl, rfl, rfl, rfl, rfl⟩
  case readByte => exact fun _ side _ _ hport ha => (step_of_port hport).trans (perform_readFb _ side ha)
  case readSample => exact fun _ side p _ _ hport hk => (step_of_port hport).trans (perform_readPl _ side p hk)

/-! ### `LOAD` -/

/-- R80, R112: the stream that holds the accesses of a `LOAD` line ends in the state in which the host program that issues
them one by one ends. -/
theorem steps_loadFrom_of_runHost {side : Side} {rest : List Access} {report : Report} {t : State} :
    ∀ {bytes : List Byte} {addr : Nat} {s : State}, s.port = loadFrom side addr bytes ++ rest →
      addr + bytes.length ≤ s.cfg.fbBytes →
      runHost (issue (loadFrom side addr bytes) (.stop report)) { s with port := rest } = .next (t, report) →
      steps bytes.length s = .next t
  | [], _, _, hport, _, hrun => by
    rw [loadFrom, List.nil_append] at hport
    rw [loadFrom, issue_nil, runHost_stop, ← hport] at hrun
    cases hrun
    rfl
  | b :: bytes, addr, s, hport, hcap, hrun => by
    rw [List.length_cons] at hcap
    have haddr : addr < s.cfg.fbBytes := by omega
    have hwrite (p : List Access) := perform_writeFb { s with port := p } side b haddr
    rw [loadFrom, runHost_issue_cons (hwrite rest)] at hrun
    rw [List.length_cons, steps, (step_of_port hport).trans (hwrite (loadFrom side (addr + 1) bytes ++ rest))]
    exact steps_loadFrom_of_runHost rfl (show addr + 1 + bytes.length ≤ s.cfg.fbBytes by omega) hrun

/-- Settles O13: the steps end where the host program of `runHost_loadFrom` ends. -/
theorem loadPlacesTheFrame : Obligations.LoadPlacesTheFrame := by
  intro s side bytes rest hlen hport
  have hcap : 0 + bytes.length ≤ s.cfg.fbBytes := by rwa [Nat.zero_add]
  obtain ⟨t, hrun, hregs, hpl, -, hpower, hrest, -, hin, hout⟩ :=
    runHost_loadFrom side (.stop (.failure 0#32 0#32)) bytes 0 { s with port := rest } hcap
  refine ⟨t, steps_loadFrom_of_runHost hport hcap hrun, hrest, fun k hk => ?_, fun k hk => ?_,
    fun other hother k => ?_, fun x p k => ?_, hregs⟩
  · rw [← hin k hk, Nat.zero_add]
  · exact hout side k fun ⟨_, _, hlt⟩ => by omega
  · exact hout other k fun ⟨heq, _⟩ => hother heq
  · simp only [State.readPl, hpl, hpower]

/-! ### Missing cells -/

/-- R75, log entry 8: an access guarded by the capacity stops with its fault exactly at a missing cell. -/
theorem guarded_fault_iff {a cap : Nat} {t : State} {f : Fault} :
    (if a < cap then .next t else .fault f : Result) = .fault f ↔ cap ≤ a := by
  by_cases ha : a < cap
  · simp [ha]
  · simp [ha, Nat.le_of_not_lt ha]

/-- Settles O14: the three accesses to memory are guarded by the capacity alike. -/
theorem missingCellsStopTheModel : Obligations.MissingCellsStopTheModel := by
  intro s side p a v rest
  refine ⟨fun hport => ?writeByte, fun hport => ?readByte, fun hport => ?readSample⟩ <;> rw [step_of_port hport]
  case writeByte => exact guarded_fault_iff
  case readByte => exact guarded_fault_iff
  case readSample => exact guarded_fault_iff

end Sys2Proof.Machine
end

section
/-! PROOFS. The command words (30_encoding.md R101 to R105), the tags and the descriptor ROM (R106 to R111), and what the
block runs of them: illegal words, tag rows and the line `FRAME` (R105, R107, R113). -/

namespace Sys2Proof.Machine

/-! ### The three fields of a command word -/

/-- R101: the three fields make up the word. -/
theorem cmd_eq_append_fields (c : Word) : (zeroField c ++ BitVec.ofBool (sideField c) ++ opField c : BitVec 32) = c := by
  ext k hk
  simp only [zeroField, sideField, opField, BitVec.getElem_append, BitVec.getElem_extractLsb', BitVec.getElem_ofBool]
  split
  · simp [BitVec.getLsbD_eq_getElem hk]
  · split
    · obtain rfl : k = 8 := by omega
      rfl
    · rw [show 9 + (k - 8 - 1) = k by omega, BitVec.getLsbD_eq_getElem hk]

/-- R101: bits 31:9, as a field and as a shifted word. -/
theorem zeroField_eq_zero_iff {c : Word} : zeroField c = 0#23 ↔ c >>> 9 = 0#32 := by
  have hlt := c.isLt
  simp only [zeroField, BitVec.toNat_eq, BitVec.extractLsb'_toNat, BitVec.toNat_ushiftRight, BitVec.toNat_ofNat,
    Nat.shiftRight_eq_div_pow]
  omega

/-- R101: bits 7:0, as a field and as a masked word. -/
theorem setWidth_opField (c : Word) : (opField c).setWidth 32 = c &&& 0xFF#32 := setWidth_extractLsb'_low c 8

theorem opField_eq_iff {c : Word} {op : BitVec 8} : opField c = op ↔ c &&& 0xFF#32 = op.setWidth 32 := by
  have hinj : (opField c).toNat = op.toNat ↔ (opField c).setWidth 32 = op.setWidth 32 := by
    simp only [BitVec.toNat_eq, BitVec.toNat_setWidth]
    omega
  rw [← setWidth_opField, ← hinj, BitVec.toNat_eq]

/-! ### The decode of a command word -/

/-- R103: an operation code outside the table has no command. -/
theorem commandOfOp_eq_none {op : BitVec 8} (side : Bool) (h : op ∉ [0x00#8, 0x01#8, 0x02#8, 0x03#8, 0x04#8, 0x0F#8]) :
    commandOfOp op side = none := by
  simp only [List.mem_cons, List.not_mem_nil, not_or, or_false] at h
  obtain ⟨h0, h1, h2, h3, h4, hF⟩ := h
  simp [commandOfOp, h0, h1, h2, h3, h4, hF]

/-- R103: the rows of the table. -/
theorem commandOfOp_cases {op : BitVec 8} {side : Bool} {i : Instr} (h : commandOfOp op side = some i) :
    (op = 0x00#8 ∧ i = .nop) ∨ (op = 0x01#8 ∧ i = .init) ∨ (op = 0x02#8 ∧ i = .ext (sideOfBit side)) ∨
      (op = 0x03#8 ∧ i = .score) ∨ (op = 0x04#8 ∧ i = .fin) ∨ (op = 0x0F#8 ∧ i = .srst) := by
  unfold commandOfOp at h
  split_ifs at h <;> (cases h; simp_all)

/-- R102: only the operation code 2 gives a command with a side. -/
theorem takesSide_of_commandOfOp {op : BitVec 8} {side : Bool} {i : Instr} (h : commandOfOp op side = some i)
    (hop : op ≠ 0x02#8) : takesSide i = false := by
  rcases commandOfOp_cases h with ⟨-, rfl⟩ | ⟨-, rfl⟩ | ⟨hext, -⟩ | ⟨-, rfl⟩ | ⟨-, rfl⟩ | ⟨-, rfl⟩
  case inr.inr.inl => exact absurd hext hop
  all_goals rfl

/-- R104: bits 31:9 not zero. -/
theorem decodeCmd_of_zeroField_ne {c : Word} (h : zeroField c ≠ 0#23) : decodeCmd c = .illegal c := if_pos h

/-- R104: an operation code outside the table. -/
theorem decodeCmd_of_commandOfOp_none {c : Word} (h : commandOfOp (opField c) (sideField c) = none) :
    decodeCmd c = .illegal c := by
  simp [decodeCmd, h]

/-- R104: with bits 31:9 zero and a command of the table, bit 8 decides. -/
theorem decodeCmd_of_commandOfOp {c : Word} {i : Instr} (hzero : zeroField c = 0#23)
    (h : commandOfOp (opField c) (sideField c) = some i) :
    decodeCmd c = if !takesSide i && sideField c then .illegal c else i := by
  rw [decodeCmd, if_neg (not_not.mpr hzero), h]

/-- R104: bit 8 on a command that takes no side. -/
theorem decodeCmd_of_stray_side {c : Word} {i : Instr} (h : commandOfOp (opField c) (sideField c) = some i)
    (htakes : takesSide i = false) (hside : sideField c = true) : decodeCmd c = .illegal c := by
  by_cases hzero : zeroField c = 0#23
  · simp [decodeCmd_of_commandOfOp hzero h, htakes, hside]
  · exact decodeCmd_of_zeroField_ne hzero

/-- R104: the command of the operation code, where nothing forbids it. -/
theorem decodeCmd_of_command {c : Word} {i : Instr} (hzero : zeroField c = 0#23)
    (h : commandOfOp (opField c) (sideField c) = some i) (hside : takesSide i = true ∨ sideField c = false) :
    decodeCmd c = i := by
  rcases hside with hside | hside <;> simp [decodeCmd_of_commandOfOp hzero h, hside]

/-- R104: a word decodes to illegal, or its fields are those of its command. -/
theorem decodeCmd_fields (c : Word) :
    decodeCmd c = .illegal c ∨
      (zeroField c = 0#23 ∧ commandOfOp (opField c) (sideField c) = some (decodeCmd c) ∧
        (takesSide (decodeCmd c) = true ∨ sideField c = false)) := by
  by_cases hzero : zeroField c = 0#23
  · cases h : commandOfOp (opField c) (sideField c) with
    | none => exact .inl (decodeCmd_of_commandOfOp_none h)
    | some i =>
      by_cases hside : takesSide i = true ∨ sideField c = false
      · obtain rfl := decodeCmd_of_command hzero h hside
        exact .inr ⟨hzero, rfl, hside⟩
      · simp only [not_or, Bool.not_eq_true, Bool.not_eq_false] at hside
        exact .inl (decodeCmd_of_stray_side h hside.1 hside.2)
  · exact .inl (decodeCmd_of_zeroField_ne hzero)

/-! ### Command words there and back -/

/-- R103: the encoding of a command puts its fields where R101 has them. -/
theorem encode_commandOfOp {op : BitVec 8} {side : Bool} {i : Instr} (h : commandOfOp op side = some i)
    (hside : takesSide i = true ∨ side = false) :
    encode i = .cmd32 (0#23 ++ BitVec.ofBool side ++ op : BitVec 32) := by
  cases side with
  | false =>
    rcases commandOfOp_cases h with
      ⟨rfl, rfl⟩ | ⟨rfl, rfl⟩ | ⟨rfl, rfl⟩ | ⟨rfl, rfl⟩ | ⟨rfl, rfl⟩ | ⟨rfl, rfl⟩ <;> rfl
  | true =>
    have htakes : takesSide i = true := hside.resolve_right (by decide)
    obtain rfl : op = 0x02#8 := by_contra fun hop => by simp [takesSide_of_commandOfOp h hop] at htakes
    cases h
    rfl

/-- R103, R104: what a command word decodes to encodes back to the word. -/
theorem encode_decodeCmd (c : Word) : encode (decodeCmd c) = .cmd32 c := by
  rcases decodeCmd_fields c with h | ⟨hzero, hop, hside⟩
  · rw [h, encode]
  · rw [encode_commandOfOp hop hside, ← hzero, cmd_eq_append_fields]

/-- R103: the commands of the table have legal words. -/
theorem encode_commandOfOp_mem {op : BitVec 8} {side : Bool} {i : Instr} (h : commandOfOp op side = some i) :
    encode i ∈ legalWords.map Code.cmd32 := by
  rcases commandOfOp_cases h with ⟨-, rfl⟩ | ⟨-, rfl⟩ | ⟨-, rfl⟩ | ⟨-, rfl⟩ | ⟨-, rfl⟩ | ⟨-, rfl⟩
  case inr.inr.inl => cases side <;> decide
  all_goals decide

/-- R104, R105: the illegal words are those that are none of the seven legal ones. -/
theorem decodeCmd_eq_illegal_iff {c : Word} : decodeCmd c = .illegal c ↔ c ∉ legalWords := by
  refine ⟨fun h hmem => decodeCmd_ne_illegal hmem c h, fun hc => (decodeCmd_cases c).resolve_right fun h => hc ?_⟩
  have hmem := encode_commandOfOp_mem h
  rw [encode_decodeCmd] at hmem
  simpa using hmem

/-! ### Tags -/

/-- R107: a tag above 6 is unsupported. -/
theorem decodeTag_unsupported (reg : TagRegister) {t : Tag} (h : 6 < t.toNat) :
    decodeTag reg t = .unsupportedTag reg t := by
  have hne {k : Tag} (hk : k.toNat ≤ 6) : t ≠ k := fun heq => Nat.not_lt.mpr hk (heq ▸ h)
  simp [decodeTag, hne]

/-- R106: the seven supported tags, in the order of their formats. -/
theorem decodeTag_supported (reg : TagRegister) {t : Tag} (h : t.toNat ≤ 6) :
    [Instr.yv12, .iyuv, .nv12, .uyvy, .yvyu, .yuy2, .y422][t.toNat]? = some (decodeTag reg t) := by
  rcases tag_cases t h with rfl | rfl | rfl | rfl | rfl | rfl | rfl <;> rfl

/-- R106, R107: what a tag decodes to is well formed. -/
theorem decodeTag_wf (reg : TagRegister) (t : Tag) : (decodeTag reg t).wf = true := by
  rcases Nat.lt_or_ge 6 t.toNat with h | h
  · simpa [decodeTag_unsupported reg h, Instr.wf] using h
  · rcases tag_cases t h with rfl | rfl | rfl | rfl | rfl | rfl | rfl <;> rfl

/-- R106, R107, log entries 5 and 7: what a tag decodes to encodes back to the tag, a supported one as a tag of
`FMT_IN`. -/
theorem encode_decodeTag (reg : TagRegister) (t : Tag) :
    encode (decodeTag reg t) = .tag8 (if t.toNat ≤ 6 then .input else reg) t := by
  rcases Nat.lt_or_ge 6 t.toNat with h | h
  · rw [decodeTag_unsupported reg h, if_neg (Nat.not_le.mpr h), encode]
  · rw [if_pos h]
    rcases tag_cases t h with rfl | rfl | rfl | rfl | rfl | rfl | rfl <;> rfl

/-! ### The statements about the encoding -/

/-- Settles O1, row by row: an operand decides only for the illegal words and the unsupported tags. -/
theorem decodeEncodeRoundTrip : Obligations.DecodeEncodeRoundTrip := by
  intro i hwf
  cases i with
  | illegal w =>
    have hw : w ∉ legalWords := by simpa [Instr.wf] using hwf
    exact congrArg Except.ok (decodeCmd_eq_illegal_iff.mpr hw)
  | unsupportedTag reg t =>
    have ht : 6 < t.toNat := by simpa [Instr.wf] using hwf
    exact congrArg Except.ok (decodeTag_unsupported reg ht)
  | ext side => cases side <;> decide
  | _ => decide

/-- Settles O2: a command word by its fields, a tag by whether it is supported. -/
theorem decodedObjectsReencode : Obligations.DecodedObjectsReencode :=
  ⟨fun c => ⟨decodeCmd_wf c, encode_decodeCmd c⟩, fun reg t => ⟨decodeTag_wf reg t, encode_decodeTag reg t⟩⟩

/-- Settles O3: each clause is one case of R104, read off the three fields. -/
theorem commandDecodeFollowsTheOrder : Obligations.CommandDecodeFollowsTheOrder := by
  intro c
  refine ⟨fun hzero => ?zero, fun hop => ?op, fun hop hside => ?stray, fun hzero hside => ?commands,
    fun hzero hop => ?ext, decodeCmd_eq_illegal_iff⟩
  case zero => exact decodeCmd_of_zeroField_ne (zeroField_eq_zero_iff.not.mpr hzero)
  case op =>
    refine decodeCmd_of_commandOfOp_none (commandOfOp_eq_none _ fun hmem => hop ?_)
    rw [← setWidth_opField]
    exact List.mem_map_of_mem (f := BitVec.setWidth 32) hmem
  case stray =>
    cases h : commandOfOp (opField c) (sideField c) with
    | none => exact decodeCmd_of_commandOfOp_none h
    | some i => exact decodeCmd_of_stray_side h (takesSide_of_commandOfOp h (opField_eq_iff.not.mpr hop)) hside
  case commands =>
    have hcommand {op : BitVec 8} {i : Instr} (hi : commandOfOp op (sideField c) = some i)
        (hop : c &&& 0xFF#32 = op.setWidth 32) : decodeCmd c = i :=
      decodeCmd_of_command (zeroField_eq_zero_iff.mpr hzero) (opField_eq_iff.mpr hop ▸ hi) (.inr hside)
    exact ⟨hcommand (op := 0x00#8) rfl, hcommand (op := 0x01#8) rfl, hcommand (op := 0x03#8) rfl,
      hcommand (op := 0x04#8) rfl, hcommand (op := 0x0F#8) rfl⟩
  case ext =>
    have hop' : opField c = 0x02#8 := opField_eq_iff.mpr hop
    exact decodeCmd_of_command (zeroField_eq_zero_iff.mpr hzero) (by rw [hop']; rfl) (.inl rfl)

/-- Settles O4: of the eight ROM words only the last is not valid. -/
theorem supportedTagsAreZeroToSix : Obligations.SupportedTagsAreZeroToSix := by
  intro reg t
  refine ⟨⟨fun ⟨hupper, hvalid⟩ => ?_, fun h => ?_⟩, decodeTag_unsupported reg, ?_⟩
  · have hlt : t.toNat < 8 := by
      have := congrArg BitVec.toNat hupper
      simp only [BitVec.toNat_ushiftRight, Nat.shiftRight_eq_div_pow, BitVec.toNat_ofNat] at this
      omega
    have hseven : t ≠ 7#8 := by
      rintro rfl
      exact absurd hvalid (by decide)
    have : t.toNat ≠ 7 := fun h => hseven (BitVec.eq_of_toNat_eq h)
    omega
  · rcases tag_cases t h with rfl | rfl | rfl | rfl | rfl | rfl | rfl <;> decide
  · exact (Nat.lt_or_ge 6 t.toNat).symm.imp_left (decodeTag_supported reg)

/-- Settles O5: each word is evaluated. -/
theorem writtenOutWordsDecode : Obligations.WrittenOutWordsDecode := by
  unfold Obligations.WrittenOutWordsDecode
  decide

/-- Settles O6: each of the eight words is evaluated. -/
theorem descriptorRomContents : Obligations.DescriptorRomContents := by
  unfold Obligations.DescriptorRomContents
  and_intros <;> rfl

/-! ### The rows that raise a fault -/

/-- Settles O18: which words are illegal is `decodeCmd_eq_illegal_iff`; their row is fault entry unless FAULTED. -/
theorem illegalWordsFault : Obligations.IllegalWordsFault := fun _ _ hc =>
  ⟨decodeCmd_eq_illegal_iff.mpr hc, unlessFaulted_of_not_faulted, unlessFaulted_of_faulted⟩

/-- Settles O19: the row of an unsupported tag is fault entry unless FAULTED. -/
theorem unsupportedTagsFault : Obligations.UnsupportedTagsFault := by
  intro reg t s ht hopen
  refine ⟨decodeTag_unsupported reg ht, (unlessFaulted_of_not_faulted hopen).trans ?_⟩
  cases reg <;> rfl

/-! ### `INIT` and the tag rows -/

/-- R131, log entry 5: the row of a tag in `FMT_IN` is `INIT` with that tag. -/
theorem exec_decodeTag_input (t : Tag) (s : State) : exec (decodeTag .input t) s = initWith t s := by
  rcases Nat.lt_or_ge 6 t.toNat with h | h
  · rw [decodeTag_unsupported .input h, initWith, if_pos h]
    rfl
  · rcases tag_cases t h with rfl | rfl | rfl | rfl | rfl | rfl | rfl <;> rfl

/-- Settles O8: the write of `INIT` is `initWith` of the tag in `FMT_IN`. -/
theorem stepRunsTheTagInFmtIn : Obligations.StepRunsTheTagInFmtIn := fun s _ hport =>
  (step_of_port hport).trans (exec_decodeTag_input s.regs.fmtIn _).symm

/-! ### The line `FRAME` -/

theorem next_andThen (s : State) (f : State → Result) : andThen (.next s) f = f s := rfl

theorem andThen_next_self (o : Result) : andThen o .next = o := by cases o <;> rfl

theorem andThen_assoc (o : Result) (f g : State → Result) :
    andThen (andThen o f) g = andThen o fun s => andThen (f s) g := by
  cases o <;> rfl

/-- The same state with other events to come; the stream that waits is no input of a command. -/
def State.awaiting (s : State) (events : List Access) : State := { s with port := events }

/-- R80: `EXT` neither reads the stream that waits nor changes it. -/
theorem execExt_awaiting (side : Side) (s : State) (events : List Access) :
    execExt side (s.awaiting events) = andThen (execExt side s) fun t => .next (t.awaiting events) := by
  have hregs : (s.awaiting events).regs = s.regs := rfl
  have hfits : (s.awaiting events).layoutFits = s.layoutFits := rfl
  simp only [execExt, whenReady, unlessFaulted, hregs, hfits]
  split_ifs <;> rfl

/-- R232: the line `FRAME`, whatever waits behind it. -/
theorem execFrame_awaiting (s : State) (events : List Access) :
    execFrame (s.awaiting events) =
      andThen (execExt .a s) fun t => andThen (execExt .b t) fun u => execScore (u.awaiting events) := by
  simp only [execFrame, execExt_awaiting, andThen_assoc, next_andThen]

/-- R24: one step for the write of `EXT side`, and the steps after it. -/
theorem steps_ext (n : Nat) (side : Side) (s : State) (rest : List Access) :
    steps (n + 1) (s.awaiting (.writeReg 0 (extWord side) :: rest)) =
      andThen (execExt side s) fun t => steps n (t.awaiting rest) := by
  have hdecode : decodeCmd (extWord side) = .ext side := by cases side <;> decide
  calc steps (n + 1) (s.awaiting (.writeReg 0 (extWord side) :: rest))
    _ = andThen (exec (decodeCmd (extWord side)) (s.awaiting rest)) (steps n) := rfl
    _ = andThen (execExt side (s.awaiting rest)) (steps n) := by rw [hdecode, exec]
    _ = andThen (execExt side s) fun t => steps n (t.awaiting rest) := by
      simp only [execExt_awaiting, andThen_assoc, next_andThen]

/-- R24: one step for the write of `SCORE`. -/
theorem steps_score (s : State) (rest : List Access) :
    steps 1 (s.awaiting (.writeReg 0 scoreWord :: rest)) = execScore (s.awaiting rest) :=
  andThen_next_self (execScore (s.awaiting rest))

/-- Settles O9: either way each command starts where the one before it ended. -/
theorem frameLineEqualsItsThreeCommands : Obligations.FrameLineEqualsItsThreeCommands := by
  intro s rest
  calc step (s.awaiting (.frame :: rest))
    _ = execFrame (s.awaiting rest) := rfl
    _ = andThen (execExt .a s) fun t => andThen (execExt .b t) fun u => execScore (u.awaiting rest) :=
      execFrame_awaiting s rest
    _ = steps 3 (s.awaiting (.writeReg 0 (extWord .a) :: .writeReg 0 (extWord .b) :: .writeReg 0 scoreWord :: rest)) := by
      simp only [steps_ext, steps_score]

end Sys2Proof.Machine
end

section
/-! PROOFS. What `INIT` does with a tag and the layouts of the seven formats (40_descriptor_rom.md R130 to R148). -/

namespace Sys2Proof.Machine

/-! ### The lengths of the planes -/

/-- R111: the class of each format's descriptor. -/
theorem romIndex_cases {t : Tag} (ht : t.toNat ≤ 6) :
    (descClass (rom (romIndex t)) = false ∧ (romIndex t = 0#3 ∨ romIndex t = 1#3 ∨ romIndex t = 2#3)) ∨
      (descClass (rom (romIndex t)) = true ∧
        (romIndex t = 3#3 ∨ romIndex t = 4#3 ∨ romIndex t = 5#3 ∨ romIndex t = 6#3)) := by
  rcases tag_cases t ht with rfl | rfl | rfl | rfl | rfl | rfl | rfl <;> decide

@[simp] theorem minArea_420 : minArea false = 4 := rfl
@[simp] theorem minArea_422 : minArea true = 2 := rfl

theorem minArea_pos (cls : Bool) : 0 < minArea cls := by cases cls <;> decide

/-- R140, R141: the chroma plane between the last two boundaries of class 0 has the length rounded to the nearest. -/
theorem last_quarter_len (wh : Nat) : wh * 3 / 2 - wh * 5 / 4 = (wh + 2) / 4 := by
  have hmod : wh % 4 = 0 ∨ wh % 4 = 1 ∨ wh % 4 = 2 ∨ wh % 4 = 3 := by omega
  rcases hmod with hmod | hmod | hmod | hmod <;> omega

/-- R148: one chroma plane has one sample for every 4 pixels (class 0) or 2 pixels (class 1), rounded down; the other has
as many, rounded to the nearest. Which is which depends on the format. -/
theorem chroma_len_cases {t : Tag} (ht : t.toNat ≤ 6) (wh : Nat) :
    ((descRange (rom (romIndex t)) wh .cb).len = wh / minArea (descClass (rom (romIndex t))) ∧
      (descRange (rom (romIndex t)) wh .cr).len =
        (wh + minArea (descClass (rom (romIndex t))) / 2) / minArea (descClass (rom (romIndex t)))) ∨
    ((descRange (rom (romIndex t)) wh .cb).len =
        (wh + minArea (descClass (rom (romIndex t))) / 2) / minArea (descClass (rom (romIndex t))) ∧
      (descRange (rom (romIndex t)) wh .cr).len = wh / minArea (descClass (rom (romIndex t)))) := by
  rcases romIndex_cases ht with ⟨hcls, h | h | h⟩ | ⟨hcls, h | h | h | h⟩ <;> rw [hcls, h]
  · refine .inr ⟨?_, ?_⟩ <;> simp only [minArea_420, yv12_cb, yv12_cr, last_quarter_len]
  · refine .inl ⟨?_, ?_⟩ <;> simp only [minArea_420, iyuv_cb, iyuv_cr, last_quarter_len]
  · refine .inr ⟨?_, ?_⟩ <;> simp only [minArea_420, nv12_cb, nv12_cr]; omega
  · refine .inr ⟨?_, ?_⟩ <;> simp only [minArea_422, uyvy_cb, uyvy_cr]
  · refine .inl ⟨?_, ?_⟩ <;> simp only [minArea_422, yvyu_cb, yvyu_cr]
  · refine .inr ⟨?_, ?_⟩ <;> simp only [minArea_422, yuy2_cb, yuy2_cr]
  · refine .inl ⟨?_, ?_⟩ <;> simp only [minArea_422, y422_cb, y422_cr]

/-- R148: no plane is shorter than the chroma plane whose length is rounded down. -/
theorem div_minArea_le_len {t : Tag} (ht : t.toNat ≤ 6) (wh : Nat) (p : Plane) :
    wh / minArea (descClass (rom (romIndex t))) ≤ (descRange (rom (romIndex t)) wh p).len := by
  have hup (m : Nat) : wh / m ≤ (wh + m / 2) / m := Nat.div_le_div_right (Nat.le_add_right wh (m / 2))
  cases p with
  | y => exact (Nat.div_le_self _ _).trans (descRange_y_len ht wh).ge
  | cb => rcases chroma_len_cases ht wh with ⟨hcb, -⟩ | ⟨hcb, -⟩ <;> simp only [hcb, le_refl, hup]
  | cr => rcases chroma_len_cases ht wh with ⟨-, hcr⟩ | ⟨-, hcr⟩ <;> simp only [hcr, le_refl, hup]

/-- Settles O27: the shortest plane is the chroma plane whose length is rounded down. -/
theorem emptyPlanesExactlyAtTinyAreas : Obligations.EmptyPlanesExactlyAtTinyAreas := by
  intro t wh ht _
  constructor
  · rintro ⟨p, hp⟩
    have hdown := Nat.eq_zero_of_le_zero (hp ▸ div_minArea_le_len ht wh p)
    exact Nat.lt_of_div_eq_zero (minArea_pos _) hdown
  · intro hlt
    have hdown := Nat.div_eq_of_lt hlt
    rcases chroma_len_cases ht wh with ⟨hcb, -⟩ | ⟨-, hcr⟩
    · exact ⟨.cb, hcb.trans hdown⟩
    · exact ⟨.cr, hcr.trans hdown⟩

/-- Settles O36: luma by `descRange_y_len`, chroma by the two roundings of `chroma_len_cases`. -/
theorem planeLengths : Obligations.PlaneLengths := by
  intro t wh ht _
  have hchroma := chroma_len_cases ht wh
  dsimp only
  generalize (descRange (rom (romIndex t)) wh .cb).len = cb, (descRange (rom (romIndex t)) wh .cr).len = cr,
    descClass (rom (romIndex t)) = cls at hchroma ⊢
  refine ⟨descRange_y_len ht wh, ?mod4, ?even, ?differ, ?equal⟩
  case mod4 => rintro rfl hmod; rw [minArea_420] at hchroma; omega
  case even => rintro rfl hmod; rw [minArea_422] at hchroma; omega
  case differ =>
    rintro (⟨rfl, hmod⟩ | ⟨rfl, hmod⟩)
    · rw [minArea_420] at hchroma; omega
    · rw [minArea_422] at hchroma; omega
  case equal => rintro rfl hmod; rw [minArea_420] at hchroma; omega

/-! ### The samples of a range -/

/-- R110: a stride is a power of two. -/
theorem descRange_stride_pos (d : Word) (wh : Nat) (p : Plane) : 0 < (descRange d wh p).stride := Nat.two_pow_pos _

/-- R132: a range stops inside the frame. -/
theorem descRange_stop_le (d : Word) (wh : Nat) (p : Plane) :
    (descRange d wh p).stop ≤ frameBytes (descClass d) wh := boundary_le_frameBytes _ _ _

/-- R137: the samples of a range are those whose address lies before its stop. -/
theorem lt_rangeLen_iff {start stop stride k : Nat} (hstride : 0 < stride) :
    k < rangeLen start stop stride ↔ start + k * stride < stop := by
  unfold rangeLen ceilDiv
  split
  · rw [Nat.lt_iff_add_one_le, Nat.le_div_iff_mul_le hstride, Nat.add_one_mul]
    omega
  · exact iff_of_false (Nat.not_lt_zero k) (by omega)

/-- R137: the samples of a plane are those whose address lies before its stop. -/
theorem lt_descRange_len_iff {d : Word} {wh : Nat} {p : Plane} {k : Nat} : k < (descRange d wh p).len ↔
    (descRange d wh p).start + k * (descRange d wh p).stride < (descRange d wh p).stop :=
  lt_rangeLen_iff (descRange_stride_pos d wh p)

/-- R7, R147: no plane is longer than the frame. -/
theorem descRange_len_le (d : Word) (wh : Nat) (p : Plane) :
    (descRange d wh p).len ≤ frameBytes (descClass d) wh := by
  refine Nat.le_of_not_lt fun hlong => ?_
  have hlast := lt_descRange_len_iff.mp hlong
  have hstop := descRange_stop_le d wh p
  have hmul := Nat.le_mul_of_pos_right (frameBytes (descClass d) wh) (descRange_stride_pos d wh p)
  omega

/-! ### The session that `INIT` opens -/

/-- R133: in an area of at least 4 (class 0) or 2 (class 1) no plane is empty. -/
theorem descRange_len_ne_zero {t : Tag} (ht : t.toNat ≤ 6) {wh : Nat}
    (harea : minArea (descClass (rom (romIndex t))) ≤ wh) (p : Plane) : (descRange (rom (romIndex t)) wh p).len ≠ 0 := by
  have hwh := (minArea_pos _).trans_le harea
  exact fun hp => Nat.not_lt.mpr harea ((emptyPlanesExactlyAtTinyAreas t wh ht hwh).mp ⟨p, hp⟩)

/-- R130: with a supported tag, a frame that fits and no empty plane, a state ready for `INIT` passes every check. -/
theorem State.InitReady.passed {s : State} (h : s.InitReady) {tag : Tag} (htag : tag.toNat ≤ 6)
    (harea : minArea (descClass (rom (romIndex tag))) ≤ s.regs.area)
    (hsize : frameBytes (descClass (rom (romIndex tag))) s.regs.area ≤ s.cfg.fbBytes) : InitPassed tag s where
  open_ := h.phase
  tagIn := htag
  tagOut := h.fmtOut
  width hw := absurd h.width (by simp [hw])
  height hh := absurd h.height (by simp [hh])
  size := hsize
  planes := firstEmptyPlane_eq_none.mpr (descRange_len_ne_zero htag harea)

/-- R130, R138, R139: the registers of an opened session, written out. -/
theorem openSession_eq_sessionOpened (s : State) (d : Word) :
    s.withRegs (s.regs.openSession d s.regs.area) = s.sessionOpened d (frameBytes (descClass d) s.regs.area)
      (descRange d s.regs.area .y) (descRange d s.regs.area .cb) (descRange d s.regs.area .cr) := by
  have hwarn : needsWarn16 s.regs.width.toNat s.regs.height.toNat =
      decide (s.regs.width.toNat % 16 ≠ 0 ∨ s.regs.height.toNat % 16 ≠ 0) := (Bool.decide_or _ _).symm
  rw [Regs.openSession, hwarn]
  rfl

/-- R130: `INIT` with a supported tag, a frame that fits and no empty plane opens a session. -/
theorem State.InitReady.initWith_eq {s : State} (h : s.InitReady) {tag : Tag} (htag : tag.toNat ≤ 6)
    (harea : minArea (descClass (rom (romIndex tag))) ≤ s.regs.area)
    (hsize : frameBytes (descClass (rom (romIndex tag))) s.regs.area ≤ s.cfg.fbBytes) :
    initWith tag s = .next (s.sessionOpened (rom (romIndex tag))
      (frameBytes (descClass (rom (romIndex tag))) s.regs.area) (descRange (rom (romIndex tag)) s.regs.area .y)
      (descRange (rom (romIndex tag)) s.regs.area .cb) (descRange (rom (romIndex tag)) s.regs.area .cr)) :=
  (initWith_of_passed (h.passed htag harea hsize)).trans (congrArg _ (openSession_eq_sessionOpened s _))

/-- R137: a plane that is not empty stops after it starts, and its length is the quotient rounded up. -/
theorem descRange_of_len_ne_zero {d : Word} {wh : Nat} {p : Plane} (hne : (descRange d wh p).len ≠ 0) :
    (descRange d wh p).start < (descRange d wh p).stop ∧ (descRange d wh p).len =
      ceilDiv ((descRange d wh p).stop - (descRange d wh p).start) (descRange d wh p).stride :=
  rangeLen_of_ne_zero hne

/-- Settles O25: `INIT` commits the ranges of the descriptor, and a range that is not empty has the length of R137. -/
theorem initOpensASession : Obligations.InitOpensASession := by
  intro s h htag wh d b range hsize h420 h422
  have harea : minArea (descClass d) ≤ wh := by
    cases hcls : descClass d
    · exact h420 hcls
    · exact h422 hcls
  have hne := descRange_len_ne_zero htag harea
  have hrange : ∀ p, descRange d wh p = range p := fun p =>
    congrArg (RangeN.mk _ _ _) (descRange_of_len_ne_zero (hne p)).2
  have hlt : b 3#2 < 2 ^ 32 := by
    obtain ⟨-, hcap⟩ := h.config
    omega
  refine ⟨?_, hlt, fun p => ?_⟩
  · rw [← hrange, ← hrange, ← hrange]
    exact h.initWith_eq htag harea hsize
  · rw [← hrange]
    exact ⟨(descRange_of_len_ne_zero (hne p)).1, descRange_stop_le d wh p, Nat.one_le_iff_ne_zero.mpr (hne p),
      descRange_len_le d wh p⟩

/-! ### The seven formats -/

/-- R130, R131, log entry 5: where the ranges of a tag's descriptor are known, `INIT` with the tag in `FMT_IN` and the
tag's row open the session with these ranges. -/
theorem State.InitReady.opens {s : State} (h : s.InitReady) {tag : Tag} (htag : tag.toNat ≤ 6) {y cb cr : RangeN}
    (hy : descRange (rom (romIndex tag)) s.regs.area .y = y)
    (hcb : descRange (rom (romIndex tag)) s.regs.area .cb = cb)
    (hcr : descRange (rom (romIndex tag)) s.regs.area .cr = cr)
    (harea : minArea (descClass (rom (romIndex tag))) ≤ s.regs.area)
    (hsize : frameBytes (descClass (rom (romIndex tag))) s.regs.area ≤ s.cfg.fbBytes) :
    let opened := s.sessionOpened (rom (romIndex tag)) (frameBytes (descClass (rom (romIndex tag))) s.regs.area) y cb cr
    (s.regs.fmtIn = tag → exec .init s = .next opened) ∧ exec (decodeTag .input tag) s = .next opened := by
  subst hy hcb hcr
  have hopens := h.initWith_eq htag harea hsize
  refine ⟨?_, (exec_decodeTag_input tag s).trans hopens⟩
  rintro rfl
  exact hopens

/-- Settles O28: the ranges of tag 0. -/
theorem yv12Layout : Obligations.Yv12Layout :=
  ⟨rfl, fun _ h => h.opens (tag := 0#8) (by decide) (yv12_y _) (yv12_cb _) (yv12_cr _)⟩

/-- Settles O29: the ranges of tag 1. -/
theorem iyuvLayout : Obligations.IyuvLayout :=
  ⟨rfl, fun _ h => h.opens (tag := 1#8) (by decide) (iyuv_y _) (iyuv_cb _) (iyuv_cr _)⟩

/-- Settles O30: the ranges of tag 2. -/
theorem nv12Layout : Obligations.Nv12Layout :=
  ⟨rfl, fun _ h => h.opens (tag := 2#8) (by decide) (nv12_y _) (nv12_cb _) (nv12_cr _)⟩

/-- Settles O31: the ranges of tag 3. -/
theorem uyvyLayout : Obligations.UyvyLayout :=
  ⟨rfl, fun _ h => h.opens (tag := 3#8) (by decide) (uyvy_y _) (uyvy_cb _) (uyvy_cr _)⟩

/-- Settles O32: the ranges of tag 4. -/
theorem yvyuLayout : Obligations.YvyuLayout :=
  ⟨rfl, fun _ h => h.opens (tag := 4#8) (by decide) (yvyu_y _) (yvyu_cb _) (yvyu_cr _)⟩

/-- Settles O33: the ranges of tag 5. -/
theorem yuy2Layout : Obligations.Yuy2Layout :=
  ⟨rfl, fun _ h => h.opens (tag := 5#8) (by decide) (yuy2_y _) (yuy2_cb _) (yuy2_cr _)⟩

/-- Settles O34: the ranges of tag 6. -/
theorem y422Layout : Obligations.Y422Layout :=
  ⟨rfl, fun _ h => h.opens (tag := 6#8) (by decide) (y422_y _) (y422_cb _) (y422_cr _)⟩

/-! ### The faults of `INIT` -/

section InitFaults

variable {tag : Tag} {s : State} (hopen : s.regs.phase ≠ .faulted)
include hopen

/-- R131: the first check, the input tag. -/
theorem initWith_of_tagIn (hin : 6 < tag.toNat) :
    initWith tag s = raise s .unsupportedFormat 0#1 (tag.setWidth 32) := by
  rw [initWith, unlessFaulted_of_not_faulted hopen, if_pos hin]

variable (hin : tag.toNat ≤ 6)
include hin

/-- R131: the second check, the output tag. -/
theorem initWith_of_tagOut (hout : 6 < s.regs.fmtOut.toNat) :
    initWith tag s = raise s .unsupportedFormat 1#1 (s.regs.fmtOut.setWidth 32) := by
  rw [initWith, unlessFaulted_of_not_faulted hopen, if_neg (Nat.not_lt.mpr hin), if_pos hout]

variable (hout : s.regs.fmtOut.toNat ≤ 6)
include hout

/-- R133 (a): the third check, the dimensions. -/
theorem initWith_of_zero_dimension (hdim : s.regs.width = 0#16 ∨ s.regs.height = 0#16) :
    initWith tag s = raise s .badResolution 0#1 (s.regs.height ++ s.regs.width : BitVec 32) := by
  rw [initWith, unlessFaulted_of_not_faulted hopen, if_neg (Nat.not_lt.mpr hin), if_neg (Nat.not_lt.mpr hout),
    if_pos hdim]

variable (hdim : ¬ (s.regs.width = 0#16 ∨ s.regs.height = 0#16))
include hdim

/-- R133 (b): the fourth check, the frame size. -/
theorem initWith_of_large_frame
    (hsize : s.cfg.fbBytes < frameBytes (descClass (rom (romIndex tag))) s.regs.area) :
    initWith tag s = raise s .frameTooLarge 0#1
      (BitVec.ofNat 32 (min (frameBytes (descClass (rom (romIndex tag))) s.regs.area) 0xFFFFFFFF)) := by
  rw [initWith, unlessFaulted_of_not_faulted hopen, if_neg (Nat.not_lt.mpr hin), if_neg (Nat.not_lt.mpr hout),
    if_neg hdim]
  exact if_pos hsize

/-- R133 (c): the last check, the planes. -/
theorem initWith_of_empty_plane
    (hsize : frameBytes (descClass (rom (romIndex tag))) s.regs.area ≤ s.cfg.fbBytes) {p : Plane}
    (hempty : firstEmptyPlane (rom (romIndex tag)) s.regs.area = some p) :
    initWith tag s = raise s .emptyPlane 0#1 (planeNumber p) := by
  rw [initWith, unlessFaulted_of_not_faulted hopen, if_neg (Nat.not_lt.mpr hin), if_neg (Nat.not_lt.mpr hout),
    if_neg hdim]
  simp only [Nat.not_lt.mpr hsize, hempty, if_false]

end InitFaults

/-- R26, R261: `FINFO` of `BAD_RESOLUTION` holds the height above the width. -/
theorem height_append_width (h w : BitVec 16) : (h ++ w : BitVec 32) = BitVec.ofNat 32 (h.toNat * 65536 + w.toNat) := by
  apply BitVec.eq_of_toNat_eq
  rw [BitVec.toNat_append, Nat.shiftLeft_eq, ← Nat.mul_comm (2 ^ 16), ← Nat.two_pow_add_eq_or_of_lt w.isLt,
    BitVec.toNat_ofNat]
  omega

/-- R136: the frame size by class. -/
theorem frameBytes_eq_ite (cls : Bool) (wh : Nat) : frameBytes cls wh = if cls then wh * 2 else wh * 3 / 2 := by
  cases cls <;> rfl

/-- Settles O26: one check of `INIT` after another. -/
theorem initFaultsInOrder : Obligations.InitFaultsInOrder := by
  intro s hopen w h d size len
  have hdims : (s.regs.width = 0#16 ∨ s.regs.height = 0#16) ↔ (w = 0 ∨ h = 0) := by
    simp only [w, h, ← BitVec.toNat_inj, BitVec.toNat_ofNat, Nat.zero_mod]
  have hbytes : frameBytes (descClass (rom (romIndex s.regs.fmtIn))) s.regs.area = size := frameBytes_eq_ite _ _
  refine ⟨initWith_of_tagIn hopen, initWith_of_tagOut hopen, fun hin hout => ⟨fun hzero => ?_, fun hw hh => ?_⟩⟩
  · rw [← height_append_width]
    exact initWith_of_zero_dimension hopen hin hout (hdims.mpr hzero)
  have hdim : ¬ (s.regs.width = 0#16 ∨ s.regs.height = 0#16) := hdims.not.mpr (by omega)
  refine ⟨fun hlarge => ?_, fun hfits => ?_⟩
  · rw [← hbytes] at hlarge ⊢
    exact initWith_of_large_frame hopen hin hout hdim hlarge
  have hempty {p : Plane} (hp : firstEmptyPlane d (w * h) = some p) :
      exec .init s = .next (s.faultedWith 8#8 0#1 (planeNumber p)) :=
    initWith_of_empty_plane hopen hin hout hdim (hbytes.trans_le hfits) hp
  refine ⟨fun hy => hempty (p := .y) ?_, fun hy hcb => hempty (p := .cb) ?_, fun hy hcb hcr => hempty (p := .cr) ?_⟩
  · exact if_pos hy
  · exact (if_neg hy).trans (if_pos hcb)
  · exact (if_neg hy).trans ((if_neg hcb).trans (if_pos hcr))

/-! ### The partition of the frame -/

/-- An address is the address of some sample of a range (R147). -/
def RangeN.Covers (r : RangeN) (a : Nat) : Prop := ∃ k, k < r.len ∧ r.start + k * r.stride = a

/-- R147: the addresses of a plane are every `stride`-th from its start, up to its stop. -/
theorem descRange_covers_iff {d : Word} {wh : Nat} {p : Plane} {a : Nat} : (descRange d wh p).Covers a ↔
    (descRange d wh p).start ≤ a ∧ a < (descRange d wh p).stop ∧
      (a - (descRange d wh p).start) % (descRange d wh p).stride = 0 := by
  simp only [RangeN.Covers, lt_descRange_len_iff]
  constructor
  · rintro ⟨k, hk, rfl⟩
    exact ⟨Nat.le_add_right _ _, hk, by simp⟩
  · rintro ⟨hstart, hstop, hmod⟩
    have hk := Nat.div_mul_cancel (Nat.dvd_of_mod_eq_zero hmod)
    exact ⟨_, by rw [hk]; omega, by rw [hk]; omega⟩

/-- A property of exactly one plane, plane by plane. -/
theorem exactly_one_plane {C : Plane → Prop}
    (h : (C .y ∧ ¬ C .cb ∧ ¬ C .cr) ∨ (¬ C .y ∧ C .cb ∧ ¬ C .cr) ∨ (¬ C .y ∧ ¬ C .cb ∧ C .cr)) :
    ∃ p, C p ∧ ∀ q, C q → q = p := by
  rcases h with ⟨hy, hcb, hcr⟩ | ⟨hy, hcb, hcr⟩ | ⟨hy, hcb, hcr⟩
  · exact ⟨.y, hy, fun q hq => by cases q; exacts [rfl, absurd hq hcb, absurd hq hcr]⟩
  · exact ⟨.cb, hcb, fun q hq => by cases q; exacts [absurd hq hy, rfl, absurd hq hcr]⟩
  · exact ⟨.cr, hcr, fun q hq => by cases q; exacts [absurd hq hy, absurd hq hcb, rfl]⟩

/-- R147: each byte of the frame belongs to exactly one plane. In a planar format the stop of one range is the start of
another; in the others the strides interleave, and the residue of the address decides. -/
theorem covers_exactly_one {t : Tag} (ht : t.toNat ≤ 6) {wh a : Nat}
    (ha : a < frameBytes (descClass (rom (romIndex t))) wh) :
    ∃ p, (descRange (rom (romIndex t)) wh p).Covers a ∧
      ∀ q, (descRange (rom (romIndex t)) wh q).Covers a → q = p := by
  apply exactly_one_plane
  simp only [descRange_covers_iff]
  rcases romIndex_cases ht with ⟨hcls, h⟩ | ⟨hcls, h⟩
  · rw [hcls, frameBytes_420] at ha
    rcases h with h | h | h <;> rw [h]
    · simp only [yv12_y, yv12_cb, yv12_cr]; omega
    · simp only [iyuv_y, iyuv_cb, iyuv_cr]; omega
    · simp only [nv12_y, nv12_cb, nv12_cr]; omega
  · rw [hcls, frameBytes_422] at ha
    rcases h with h | h | h | h <;> rw [h]
    · simp only [uyvy_y, uyvy_cb, uyvy_cr]; omega
    · simp only [yvyu_y, yvyu_cb, yvyu_cr]; omega
    · simp only [yuy2_y, yuy2_cb, yuy2_cr]; omega
    · simp only [y422_y, y422_cb, y422_cr]; omega

/-- R147: the lengths add up to the frame size. -/
theorem sum_len_eq_frameBytes {t : Tag} (ht : t.toNat ≤ 6) (wh : Nat) :
    (descRange (rom (romIndex t)) wh .y).len + (descRange (rom (romIndex t)) wh .cb).len +
      (descRange (rom (romIndex t)) wh .cr).len = frameBytes (descClass (rom (romIndex t))) wh := by
  have hchroma := chroma_len_cases ht wh
  rw [descRange_y_len ht]
  rcases romIndex_cases ht with ⟨hcls, -⟩ | ⟨hcls, -⟩
  · rw [hcls, minArea_420] at hchroma
    rw [hcls, frameBytes_420]
    omega
  · rw [hcls, minArea_422] at hchroma
    rw [hcls, frameBytes_422]
    omega

/-- Settles O35: a byte belongs to one plane by `covers_exactly_one`, and to one sample of it because the addresses of a
range rise by its stride. -/
theorem layoutPartitionsTheFrame : Obligations.LayoutPartitionsTheFrame := by
  intro t wh ht hwh d r size
  refine ⟨fun p k hk => ?_, fun a ha => ?_, sum_len_eq_frameBytes ht wh⟩
  · exact (lt_descRange_len_iff.mp hk).trans_le (descRange_stop_le d wh p)
  · obtain ⟨p, ⟨k, hk, hka⟩, hunique⟩ := covers_exactly_one ht ha
    refine ⟨p, k, hk, hka, fun q j hj hja => ?_⟩
    obtain rfl := hunique q ⟨j, hj, hja⟩
    have hmul : j * (r q).stride = k * (r q).stride := Nat.add_left_cancel (hja.trans hka.symm)
    exact ⟨rfl, Nat.eq_of_mul_eq_mul_right (descRange_stride_pos d wh q) hmul⟩

end Sys2Proof.Machine
end

section
/-! PROOFS. What `EXT` copies and when it faults (41_plane_extractor.md R170 to R176), what `FRAME` does in an open session
(43_control_commands.md R232), and that no instruction stops the model in a state of the session invariant. -/

namespace Sys2Proof.Machine

/-! ### `EXT` in READY -/

/-- R174: `EXT` of a side with fewer bytes declared than a frame has. -/
theorem execExt_of_short {side : Side} {s : State} (hready : s.regs.phase = .ready)
    (hshort : (s.regs.lenBytes.get side).toNat < s.regs.frameSize.toNat) :
    execExt side s = raise s .endOfStream (sideBit side) s.regs.frameIdx :=
  (whenReady_of_ready hready).trans (if_pos hshort)

/-- R170: `EXT` of a loaded side under a layout that fits. -/
theorem execExt_of_loaded {side : Side} {s : State} (hready : s.regs.phase = .ready)
    (hlen : s.regs.frameSize.toNat ≤ (s.regs.lenBytes.get side).toNat) (hfit : s.layoutFits = true) :
    execExt side s = .next (s.extract side) :=
  (whenReady_of_ready hready).trans ((if_neg (Nat.not_lt.mpr hlen)).trans (if_pos hfit))

/-- R172: an extracted sample is, as a signed number, the unsigned value of its byte. -/
theorem sampleAt_toInt (s : State) (side : Side) (r : PlaneRange) (k : Nat) :
    (s.sampleAt side r k).toInt = ((s.readFb side (r.address k)).toNat : Int) := by
  rw [toInt_of_byte (sampleAt_le s side r k), State.sampleAt, BitVec.toNat_setWidth_of_le (by decide)]

/-- R176: the low byte of an extracted sample is the byte it was read from. -/
theorem sampleAt_setWidth (s : State) (side : Side) (r : PlaneRange) (k : Nat) :
    (s.sampleAt side r k).setWidth 8 = s.readFb side (r.address k) := by
  rw [State.sampleAt, BitVec.setWidth_setWidth_of_le _ (by decide), BitVec.setWidth_eq]

/-- Settles O38: the first check of `EXT` in READY. -/
theorem shortFramesFault : Obligations.ShortFramesFault := by
  intro side s hready hshort
  refine (execExt_of_short hready hshort).trans ?_
  cases side <;> rfl

/-- Settles O37: past its checks `EXT` answers `State.extract`, whose samples `readPl_extract` reads. -/
theorem extractCopiesThePlanes : Obligations.ExtractCopiesThePlanes := by
  intro side s hready hlen hfit
  have hread := readPl_extract s side
  refine ⟨s.extract side, execExt_of_loaded hready hlen hfit, fun p k hk => ?copied, fun p k hk => ?above,
    fun other hother p k => ?other, fun _ _ => rfl, ⟨rfl, rfl, rfl, rfl⟩, ?regs⟩
  case copied =>
    rw [hread side, if_pos ⟨rfl, hk⟩]
    exact sampleAt_toInt s side _ k
  case above => exact (hread side p k).trans (if_neg fun h => Nat.not_lt.mpr hk h.2)
  case other => exact (hread other p k).trans (if_neg fun h => hother h.1)
  case regs => cases side <;> rfl

/-! ### Layouts that fit -/

/-- R170: the three ranges fit when each of them does. -/
theorem layoutFits_iff {s : State} : s.layoutFits = true ↔ ∀ p, (s.regs.layout.get p).fits s.cfg.fbBytes = true := by
  simp only [State.layoutFits, Bool.and_eq_true]
  constructor
  · rintro ⟨⟨hy, hcb⟩, hcr⟩ p
    cases p
    · exact hy
    · exact hcb
    · exact hcr
  · exact fun h => ⟨⟨h .y, h .cb⟩, h .cr⟩

/-- R70, R171: a range fits when all its addresses exist; rising addresses leave room for its samples too. -/
theorem PlaneRange.fits_of_address_lt {r : PlaneRange} {cap : Nat} (hstride : 0 < r.stride.toNat)
    (h : ∀ k, k < r.len.toNat → r.address k < cap) : r.fits cap = true := by
  have hlen : r.len.toNat ≤ cap := by
    refine Nat.le_of_not_lt fun hlong => ?_
    have hlast : r.start.toNat + cap * r.stride.toNat < cap := h cap hlong
    have hmul := Nat.le_mul_of_pos_right cap hstride
    omega
  have hlast : r.len.toNat = 0 ∨ r.address (r.len.toNat - 1) < cap :=
    (Nat.eq_zero_or_pos _).imp_right fun hpos => h _ (Nat.sub_one_lt_of_lt hpos)
  simpa [PlaneRange.fits, hlen] using hlast

/-- R31: the stride of a layout in force is not 0. -/
theorem PlaneRange.good.stride_pos {r : PlaneRange} {size : Nat} (h : r.good size) : 0 < r.stride.toNat := by
  obtain ⟨-, -, hstride, -⟩ := h
  rcases hstride with hstride | hstride | hstride <;> rw [hstride] <;> decide

/-- R137, R171: the addresses of a range of a layout in force lie inside the frame. -/
theorem PlaneRange.good.address_lt {r : PlaneRange} {size k : Nat} (h : r.good size) (hk : k < r.len.toNat) :
    r.address k < size := by
  have hstride := h.stride_pos
  obtain ⟨hlt, hstop, -, hlen⟩ := h
  have hrange : r.len.toNat = rangeLen r.start.toNat r.stop.toNat r.stride.toNat := hlen.trans (if_pos hlt).symm
  exact ((lt_rangeLen_iff hstride).mp (hk.trans_eq hrange)).trans_le hstop

/-! ### No stop under the session invariant -/

/-- R170: the layout of an open session fits the buffers. -/
theorem State.SessionOk.layoutFits {s : State} (h : s.SessionOk) (hready : s.regs.phase = .ready) :
    s.layoutFits = true := by
  have hlayout := h.session (.inl hready)
  refine layoutFits_iff.mpr fun p => ?_
  have hgood := h.ranges hlayout p
  exact PlaneRange.fits_of_address_lt hgood.stride_pos fun k hk => (hgood.address_lt hk).trans_le (h.size hlayout)

/-- R7: the lengths of an open session fit the plane memories. -/
theorem State.SessionOk.lengthsFit {s : State} (h : s.SessionOk) (hready : s.regs.phase = .ready) :
    s.lengthsFit = true := by
  have hlen := len_le_of_layoutFits (h.layoutFits hready)
  have hzref := h.zref (h.session (.inl hready))
  simp only [State.lengthsFit, hzref, Bool.and_eq_true, decide_eq_true_eq]
  exact ⟨⟨⟨hlen .y, hlen .cb⟩, hlen .cr⟩, hlen .y⟩

/-- R267: a command that is ignored in FAULTED answers next when its own work does. -/
theorem exists_next_unlessFaulted {s : State} {k : Result} (h : ∃ t, k = .next t) : ∃ t, unlessFaulted s k = .next t := by
  unfold unlessFaulted
  split
  · exact ⟨s, rfl⟩
  · exact h

/-- R233: a command of an open session answers next when its own work in READY does. -/
theorem exists_next_whenReady {s : State} {word : Word} {k : Result}
    (h : s.regs.phase = .ready → ∃ t, k = .next t) : ∃ t, whenReady s word k = .next t := by
  refine exists_next_unlessFaulted ?_
  split
  · rename_i hready
    exact h hready
  · exact ⟨_, rfl⟩

/-- R170: under the session invariant `EXT` answers next, with a short frame or a whole one. -/
theorem State.SessionOk.exists_next_ext {s : State} (h : s.SessionOk) (side : Side) : ∃ t, execExt side s = .next t := by
  refine exists_next_whenReady fun hready => ?_
  rw [if_pos (h.layoutFits hready)]
  split <;> exact ⟨_, rfl⟩

/-- R190: under the session invariant `SCORE` answers next, whatever its checks find. -/
theorem State.SessionOk.exists_next_score {s : State} (h : s.SessionOk) : ∃ t, execScore s = .next t := by
  refine exists_next_whenReady fun hready => ?_
  rw [if_pos (h.lengthsFit hready)]
  split
  · exact ⟨_, rfl⟩
  · split <;> exact ⟨_, rfl⟩

/-- R202: `FIN` answers next in every state. -/
theorem exists_next_fin (s : State) : ∃ t, execFin s = .next t := by
  refine exists_next_whenReady fun _ => ?_
  split <;> exact ⟨_, rfl⟩

/-- R232: `FRAME` answers next, because each of its commands keeps the session invariant for the next one. -/
theorem State.SessionOk.exists_next_frame {s : State} (h : s.SessionOk) : ∃ t, execFrame s = .next t := by
  obtain ⟨u, hu⟩ := h.exists_next_ext .a
  have hsu := kept_sessionOk.ext h hu
  obtain ⟨v, hv⟩ := hsu.exists_next_ext .b
  have hsv := kept_sessionOk.ext hsu hv
  rw [execFrame, hu, next_andThen, hv, next_andThen]
  exact hsv.exists_next_score

/-- Settles O60: the rows that open a session and those that only raise a fault have no guard of the model's own; `EXT`,
`SCORE` and `FRAME` meet theirs by the session invariant. -/
theorem invariantStatesNeverStop : Obligations.InvariantStatesNeverStop := by
  intro i s h
  by_cases hopens : opensSession i = true
  · obtain ⟨tag, hinit⟩ := exec_eq_initWith hopens s
    obtain ⟨t, ht, -⟩ := initWith_cases tag s
    exact ⟨t, hinit.trans ht⟩
  cases i with
  | nop => exact ⟨s, rfl⟩
  | ext side => exact h.exists_next_ext side
  | score => exact h.exists_next_score
  | fin => exact exists_next_fin s
  | srst => exact ⟨s.softReset, rfl⟩
  | frame => exact h.exists_next_frame
  | illegal _ => exact exists_next_unlessFaulted ⟨_, rfl⟩
  | unsupportedTag _ _ => exact exists_next_unlessFaulted ⟨_, rfl⟩
  | _ => exact absurd rfl hopens

/-! ### The layout of a supported tag in the registers -/

section LayoutOf

variable {s : State} {tag : Tag} {wh : Nat} (hcfg : s.cfg.wf) (h : s.layoutOf tag wh)
include hcfg h

/-- R6, R133 (b): the frame size of a layout that fits the buffers fits its register. -/
theorem State.layoutOf.frameSize_eq :
    s.regs.frameSize.toNat = frameBytes (descClass (rom (romIndex tag))) wh := by
  obtain ⟨-, hcap⟩ := hcfg
  obtain ⟨-, -, hfits, hsize, -⟩ := h
  rw [hsize, BitVec.toNat_ofNat, Nat.mod_eq_of_lt (by omega)]

/-- R6, R7: each length of a layout that fits the buffers fits its register. -/
theorem State.layoutOf.len_eq (p : Plane) :
    (s.regs.layout.get p).len.toNat = (descRange (rom (romIndex tag)) wh p).len := by
  obtain ⟨-, hcap⟩ := hcfg
  obtain ⟨-, -, hfits, -, hlayout⟩ := h
  have hlen := descRange_len_le (rom (romIndex tag)) wh p
  rw [hlayout, Planes.get_tabulate, RangeN.toRegs, BitVec.toNat_ofNat, Nat.mod_eq_of_lt (by omega)]

omit hcfg in
/-- R31, R111: each stride of the ROM fits its register. -/
theorem State.layoutOf.stride_eq (p : Plane) :
    (s.regs.layout.get p).stride.toNat = (descRange (rom (romIndex tag)) wh p).stride := by
  obtain ⟨-, -, -, -, hlayout⟩ := h
  have hstride := descRange_stride (romIndex tag) wh p
  rw [hlayout, Planes.get_tabulate, RangeN.toRegs, BitVec.toNat_ofNat, Nat.mod_eq_of_lt (by omega)]

/-- R171: the address of a sample, from the registers and from the descriptor. The start of an empty plane may be out of
its register's reach, and then the plane has no sample. -/
theorem State.layoutOf.address_eq {p : Plane} {k : Nat} (hk : k < (s.regs.layout.get p).len.toNat) :
    (s.regs.layout.get p).address k =
      (descRange (rom (romIndex tag)) wh p).start + k * (descRange (rom (romIndex tag)) wh p).stride := by
  have hlt := lt_descRange_len_iff.mp (hk.trans_eq (h.len_eq hcfg p))
  have hstop := descRange_stop_le (rom (romIndex tag)) wh p
  rw [PlaneRange.address, h.stride_eq p]
  obtain ⟨-, hcap⟩ := hcfg
  obtain ⟨-, -, hfits, -, hlayout⟩ := h
  rw [hlayout, Planes.get_tabulate, RangeN.toRegs, BitVec.toNat_ofNat, Nat.mod_eq_of_lt (by omega)]

/-- R147: every address lies inside the frame. -/
theorem State.layoutOf.address_lt {p : Plane} {k : Nat} (hk : k < (s.regs.layout.get p).len.toNat) :
    (s.regs.layout.get p).address k < s.regs.frameSize.toNat := by
  rw [h.address_eq hcfg hk, h.frameSize_eq hcfg]
  exact (lt_descRange_len_iff.mp (hk.trans_eq (h.len_eq hcfg p))).trans_le (descRange_stop_le _ wh p)

/-- R147: every byte of the frame is addressed. -/
theorem State.layoutOf.exists_address_eq {a : Nat} (ha : a < s.regs.frameSize.toNat) :
    ∃ p k, k < (s.regs.layout.get p).len.toNat ∧ (s.regs.layout.get p).address k = a := by
  obtain ⟨htag, -⟩ := id h
  obtain ⟨p, ⟨k, hk, hka⟩, -⟩ := covers_exactly_one htag (ha.trans_eq (h.frameSize_eq hcfg))
  have hk' := hk.trans_eq (h.len_eq hcfg p).symm
  exact ⟨p, k, hk', (h.address_eq hcfg hk').trans hka⟩

/-- R170: the layout of a supported tag fits the buffers, empty planes included. -/
theorem State.layoutOf.layoutFits : s.layoutFits = true := by
  have hsize := h.frameSize_eq hcfg
  obtain ⟨-, -, hcap, -, -⟩ := id h
  refine layoutFits_iff.mpr fun p => PlaneRange.fits_of_address_lt ?_ fun k hk => ?_
  · exact (descRange_stride_pos _ wh p).trans_eq (h.stride_eq p).symm
  · exact (h.address_lt hcfg hk).trans_le (hsize.trans_le hcap)

end LayoutOf

/-! ### Re-packing -/

/-- R176: where every value written back is the byte `g` has at its address, an address that is written back, or held the
byte of `g` before, holds the byte of `g`. -/
theorem read?_repackPlane_of_mem {r : PlaneRange} {f g : Nat → Byte} {m : Memory 8} {a : Nat} :
    ∀ {n : Nat}, (∀ k, k < n → f k = g (r.address k)) →
      (∃ k, k < n ∧ r.address k = a) ∨ Memory.read? m a = some (g a) →
      Memory.read? (repackPlane r f m n) a = some (g a)
  | 0, _, .inl ⟨_, hk, _⟩ => absurd hk (Nat.not_lt_zero _)
  | 0, _, .inr hm => hm
  | n + 1, hf, ha => by
    rw [repackPlane, Memory.read?_write]
    split
    · rename_i hlast
      rw [hf n (Nat.lt_succ_self n), hlast]
    · rename_i hlast
      refine read?_repackPlane_of_mem (fun k hk => hf k (Nat.lt_succ_of_lt hk)) (ha.imp_left ?_)
      rintro ⟨k, hk, rfl⟩
      have hne : k ≠ n := fun hkn => hlast (by rw [hkn])
      exact ⟨k, by omega, rfl⟩

/-- R176: an address of no sample is left alone. -/
theorem read?_repackPlane_of_not_mem {r : PlaneRange} {f : Nat → Byte} {m : Memory 8} {a n : Nat}
    (ha : ∀ k, k < n → r.address k ≠ a) : Memory.read? (repackPlane r f m n) a = Memory.read? m a := by
  induction n with
  | zero => rfl
  | succ n ih =>
    rw [repackPlane, Memory.read?_write_other _ _ (ha n (Nat.lt_succ_self n)).symm]
    exact ih fun k hk => ha k (Nat.lt_succ_of_lt hk)

/-- R176: re-packing samples that are the bytes of `g` at their addresses gives the bytes of `g` at every address. -/
theorem State.read?_repack_of_address {s : State} {side : Side} {g : Nat → Byte}
    (hg : ∀ p k, k < (s.regs.layout.get p).len.toNat →
      (s.readPl side p k).setWidth 8 = g ((s.regs.layout.get p).address k))
    {p : Plane} {a : Nat} (ha : ∃ k, k < (s.regs.layout.get p).len.toNat ∧ (s.regs.layout.get p).address k = a) :
    Memory.read? (s.repack side) a = some (g a) := by
  cases p with
  | y =>
    exact read?_repackPlane_of_mem (hg .cr) (.inr (read?_repackPlane_of_mem (hg .cb) (.inr
      (read?_repackPlane_of_mem (hg .y) (.inl ha)))))
  | cb => exact read?_repackPlane_of_mem (hg .cr) (.inr (read?_repackPlane_of_mem (hg .cb) (.inl ha)))
  | cr => exact read?_repackPlane_of_mem (hg .cr) (.inl ha)

/-- R176: re-packing writes no address but those of the samples. -/
theorem State.read?_repack_of_no_address {s : State} {side : Side} {a : Nat}
    (ha : ∀ p k, k < (s.regs.layout.get p).len.toNat → (s.regs.layout.get p).address k ≠ a) :
    Memory.read? (s.repack side) a = none :=
  (read?_repackPlane_of_not_mem (ha .cr)).trans <| (read?_repackPlane_of_not_mem (ha .cb)).trans <|
    read?_repackPlane_of_not_mem (ha .y)

/-- Settles O39: the samples are the bytes of the buffer at their addresses, and the addresses are those of the frame. -/
theorem extractThenRepackIsTheFrame : Obligations.ExtractThenRepackIsTheFrame := by
  intro side s tag wh hcfg hlayout hready hlen
  refine ⟨s.extract side, execExt_of_loaded hready hlen (hlayout.layoutFits hcfg), fun a ha => ?inside,
    fun a ha => ?outside⟩
  case inside =>
    obtain ⟨p, hp⟩ := hlayout.exists_address_eq hcfg ha
    refine State.read?_repack_of_address (g := s.readFb side) (fun q k hk => ?_) hp
    rw [readPl_extract, if_pos ⟨rfl, hk⟩]
    exact sampleAt_setWidth s side _ k
  case outside =>
    refine State.read?_repack_of_no_address fun p k hk => ?_
    exact ((hlayout.address_lt hcfg hk).trans_le ha).ne

/-! ### `SCORE` of two extracted sides -/

/-- R190: `SCORE` past its checks. -/
theorem execScore_of_extracted {s : State} (hready : s.regs.phase = .ready) (hpv : s.regs.pv = ⟨true, true⟩)
    (hidx : s.regs.frameIdx ≠ 0xFFFFFFFF#32) (hfit : s.lengthsFit = true) : execScore s = .next s.scored := by
  have hboth : ¬ (s.regs.pv.a = false ∨ s.regs.pv.b = false) := by simp [hpv]
  rw [execScore, whenReady_of_ready hready, if_neg hboth, if_neg hidx, if_pos hfit]

/-- R193: the skip decision, sample by sample. -/
theorem State.skips_iff {s : State} : s.skips = true ↔ ∀ k, k < s.regs.zrefLen.toNat → s.readPl .b .y k = 0#16 := by
  simp [State.skips]

/-- R193: `SKIPPED` holds the skip decision. -/
theorem State.scored_skipped (s : State) : s.scored.regs.skipped = s.skips := by
  cases h : s.skips <;> simp [State.scored, h]

/-- R193: the registers after a pair that was skipped. -/
theorem State.scored_regs_of_skipped {s : State} (h : s.scored.regs.skipped = true) :
    s.scored.regs = s.regs.skipFrame := by
  rw [State.scored_skipped] at h
  rw [State.scored, if_pos h, State.withRegs_regs]

/-- R190, R200: the registers after a pair that was used. -/
theorem State.scored_regs_of_used {s : State} (h : s.scored.regs.skipped = false) :
    s.scored.regs = s.regs.useFrame (Planes.tabulate s.sseOf) s.framePsnr := by
  rw [State.scored_skipped] at h
  rw [State.scored, if_neg (Bool.not_eq_true _ ▸ h), State.withRegs_regs]

/-- R190: what `SCORE` reads of the planes reads the same afterwards. -/
theorem State.scored_readings (s : State) :
    s.scored.readPl = s.readPl ∧ s.scored.sseOf = s.sseOf ∧ s.scored.framePsnr = s.framePsnr := by
  rcases s.scored_cases with h | h <;> rw [h] <;> exact ⟨rfl, rfl, rfl⟩

/-- R190, R193: a pair is counted and its valid bits are cleared, skipped or used. -/
theorem State.scored_counted (s : State) :
    s.scored.regs.phase = s.regs.phase ∧ s.scored.regs.frameIdx = s.regs.frameIdx + 1#32 ∧
      s.scored.regs.pv = ⟨false, false⟩ := by
  rcases s.scored_cases with h | h <;> rw [h] <;> exact ⟨rfl, rfl, rfl⟩

/-- R190, R193: what `SCORE` leaves alone, skipping or using a pair. -/
theorem State.scored_frame (s : State) :
    s.scored.regs.mean = s.regs.mean ∧ s.scored.regs.warn16 = s.regs.warn16 ∧ sameFrameBuffers s s.scored ∧
      sameHostRegs s s.scored ∧ sameLayout s s.scored ∧ sameFaultRecord s s.scored ∧ samePort s s.scored := by
  rcases s.scored_cases with h | h <;> rw [h] <;>
    exact ⟨rfl, rfl, fun _ _ => rfl, ⟨rfl, rfl, rfl, rfl, rfl⟩, ⟨rfl, rfl, rfl, rfl⟩, ⟨rfl, rfl, rfl⟩, rfl, rfl, rfl, rfl⟩

/-- R200: a running sum, with the sentinel and the `Q` field written out. -/
theorem sumAfter_eq (sum : Sum48) (v : Word) :
    sumAfter sum v = if v = 0x80000000#32 then sum else sum + (v.extractLsb' 0 16).setWidth 48 := by
  simp [sumAfter, isNan, nanWord, qField]

/-! ### `FRAME` in READY -/

/-- The state between the extractions of `FRAME` and its `SCORE` (R113). -/
def State.extractBoth (s : State) : State := (s.extract .a).extract .b

/-- R113, R232: `FRAME` with both sides loaded scores what it has extracted. -/
theorem execFrame_of_loaded {s : State} (hready : s.regs.phase = .ready)
    (ha : s.regs.frameSize.toNat ≤ s.regs.lenBytes.a.toNat) (hb : s.regs.frameSize.toNat ≤ s.regs.lenBytes.b.toNat)
    (hfit : s.layoutFits = true) (hlens : s.lengthsFit = true) (hidx : s.regs.frameIdx ≠ 0xFFFFFFFF#32) :
    execFrame s = .next s.extractBoth.scored := by
  have hextA : execExt .a s = .next (s.extract .a) := execExt_of_loaded hready ha hfit
  have hextB : execExt .b (s.extract .a) = .next s.extractBoth := execExt_of_loaded hready hb hfit
  rw [execFrame, hextA, next_andThen, hextB, next_andThen]
  exact execScore_of_extracted hready rfl hidx hlens

/-- R170: both sides hold the samples of their own buffers, and their cells past the samples are as before. -/
theorem readPl_extractBoth (s : State) (side : Side) (p : Plane) (k : Nat) :
    s.extractBoth.readPl side p k =
      if k < (s.regs.layout.get p).len.toNat then s.sampleAt side (s.regs.layout.get p) k else s.readPl side p k := by
  cases side with
  | a =>
    have hkept : s.extractBoth.readPl .a p k = (s.extract .a).readPl .a p k :=
      (readPl_extract (s.extract .a) .b .a p k).trans (if_neg fun h => nomatch h.1)
    rw [hkept, readPl_extract]
    simp only [true_and]
  | b =>
    have hkept : (s.extract .a).readPl .b p k = s.readPl .b p k :=
      (readPl_extract s .a .b p k).trans (if_neg fun h => nomatch h.1)
    have hread := readPl_extract (s.extract .a) .b .b p k
    simp only [true_and, hkept] at hread
    exact hread

/-- Settles O54: `FRAME` is `SCORE` after both extractions, which change the planes and the valid bits alone. -/
theorem frameExtractsAndScores : Obligations.FrameExtractsAndScores := by
  intro s hready ha hb hfit hlens hidx add
  obtain ⟨hphase, hcount, hpv⟩ := s.extractBoth.scored_counted
  obtain ⟨hreadPl, hsse, hpsnr⟩ := s.extractBoth.scored_readings
  refine ⟨s.extractBoth.scored, execFrame_of_loaded hready ha hb hfit hlens hidx, hphase.trans hready, hcount, hpv,
    fun side p k => ?planes, ?skipped, fun hskip => ?skip, fun huse => ?use, s.extractBoth.scored_frame⟩
  case planes => exact (congrFun₃ hreadPl side p k).trans (readPl_extractBoth s side p k)
  case skipped => rw [State.scored_skipped, hreadPl, State.skips_iff]; rfl
  case skip =>
    rw [State.scored_regs_of_skipped hskip]
    exact ⟨rfl, rfl, rfl, rfl, rfl⟩
  case use =>
    rw [hsse, hpsnr, State.scored_regs_of_used huse]
    refine ⟨rfl, rfl, fun p => ?_, ?_, rfl⟩
    · rw [useFrame_sse_get, Planes.get_tabulate]
    · simp only [Regs.useFrame_sum, Regs.useFrame_psnr, Series.zip, sumAfter_eq]
      rfl

end Sys2Proof.Machine
end

section
/-! PROOFS. The metric (42_metric_accumulator.md R190 to R204): the sums of squared errors, `psnr_q` and the composite, and
the whole next state of `SCORE` and `FIN` in READY. -/

namespace Sys2Proof.Machine

/-! ### `SCORE` in READY -/

/-- R193: the state after a pair that is skipped. -/
theorem State.scored_of_skips {s : State} (h : s.skips = true) : s.scored = s.withRegs s.regs.skipFrame := if_pos h

/-- R190: the state after a pair that is used. -/
theorem State.scored_of_not_skips {s : State} (h : s.skips = false) :
    s.scored = s.withRegs (s.regs.useFrame (Planes.tabulate s.sseOf) s.framePsnr) :=
  if_neg (Bool.eq_false_iff.mp h)

/-- R193: a pair is used when some luma sample of side B is not 0. -/
theorem State.skips_eq_false_iff {s : State} :
    s.skips = false ↔ ∃ k, k < s.regs.zrefLen.toNat ∧ s.readPl .b .y k ≠ 0#16 := by
  rw [← Bool.not_eq_true, State.skips_iff]
  simp only [not_forall, exists_prop, ne_eq]

/-- Settles O40: past its checks `SCORE` takes the skip branch of `State.scored`. -/
theorem scoreSkipsZeroLuma : Obligations.ScoreSkipsZeroLuma := by
  intro s hready hpv hidx hfit hdark
  refine (execScore_of_extracted hready hpv hidx hfit).trans ?_
  rw [State.scored_of_skips (State.skips_iff.mpr hdark)]
  rfl

/-- Settles O41: past its checks `SCORE` takes the other branch of `State.scored`; the sums are written out by
`sumAfter_eq`. -/
theorem scoreAccumulates : Obligations.ScoreAccumulates := by
  intro s hready hpv hidx hfit hlit word comp add
  refine (execScore_of_extracted hready hpv hidx hfit).trans ?_
  have hsum : Series.zip sumAfter s.regs.sum s.framePsnr = ⟨add s.regs.sum.y (word .y), add s.regs.sum.cb (word .cb),
      add s.regs.sum.cr (word .cr), add s.regs.sum.c comp⟩ := by
    simp only [Series.zip, sumAfter_eq]
    rfl
  rw [State.scored_of_not_skips (State.skips_eq_false_iff.mpr hlit), Regs.useFrame, hsum]
  rfl

/-- Settles O42: the two checks of `SCORE`, in their order. -/
theorem scoreFaults : Obligations.ScoreFaults := by
  intro s hready
  refine ⟨fun hside => (whenReady_of_ready hready).trans (if_pos hside), fun ha hb hlast => ?_⟩
  have hboth : ¬ (s.regs.pv.a = false ∨ s.regs.pv.b = false) := by simp [ha, hb]
  exact (whenReady_of_ready hready).trans ((if_neg hboth).trans (if_pos hlast))

/-! ### The sums of squared errors -/

/-- R195: the sum of squared errors, in Mathlib's words. -/
theorem State.sseOf_eq_sum (s : State) (p : Plane) : s.sseOf p =
    ∑ k ∈ Finset.range (s.regs.layout.get p).len.toNat, squaredError (s.readPl .a p k) (s.readPl .b p k) :=
  sumBelow_eq_sum _ _

/-- R195: the error is 0 exactly when the planes are equal sample for sample. -/
theorem State.sseOf_eq_zero_iff {s : State} {p : Plane} :
    s.sseOf p = 0 ↔ ∀ k, k < (s.regs.layout.get p).len.toNat → s.readPl .a p k = s.readPl .b p k := by
  simp only [State.sseOf_eq_sum, Finset.sum_eq_zero_iff, Finset.mem_range, squaredError_eq_zero]

/-- Settles O43: the sum term by term; a length is held in 32 bits. -/
theorem sseIsTheSumOfSquaredDifferences : Obligations.SseIsTheSumOfSquaredDifferences := by
  intro s p n
  refine ⟨?exact, State.sseOf_eq_zero_iff, fun hbytes => ?bound⟩
  case exact => rw [State.sseOf_eq_sum, Nat.cast_sum]; simp only [squaredError_cast, n]
  case bound =>
    have hle : s.sseOf p ≤ 65025 * n := sseOf_le hbytes
    have hn : n < 2 ^ 32 := BitVec.isLt _
    exact ⟨hle, by omega⟩

/-- R194, R205 (c): with the sides exchanged an error is the same. -/
theorem State.sseOf_eq_of_swapped {s t : State} {p : Plane} (hlen : t.regs.layout.get p = s.regs.layout.get p)
    (hswap : ∀ k, k < (s.regs.layout.get p).len.toNat →
      t.readPl .a p k = s.readPl .b p k ∧ t.readPl .b p k = s.readPl .a p k) : t.sseOf p = s.sseOf p := by
  rw [State.sseOf_eq_sum, State.sseOf_eq_sum, hlen]
  refine Finset.sum_congr rfl fun k hk => ?_
  obtain ⟨ha, hb⟩ := hswap k (Finset.mem_range.mp hk)
  rw [ha, hb, squaredError_comm]

/-- R190: the words of a frame pair are those of its errors and lengths. -/
theorem State.framePsnr_congr {s t : State} (hlayout : t.regs.layout = s.regs.layout)
    (hsse : ∀ p, t.sseOf p = s.sseOf p) : t.framePsnr = s.framePsnr := by
  have hword : t.planeWord = s.planeWord := funext fun p => by rw [State.planeWord, State.planeWord, hsse, hlayout]
  rw [State.framePsnr, State.framePsnr, hword]

/-- Settles O48: a squared difference is symmetric. -/
theorem sidesAreSymmetric : Obligations.SidesAreSymmetric := by
  intro s t hlayout hswap
  have hsse : ∀ p, t.sseOf p = s.sseOf p := fun p => State.sseOf_eq_of_swapped (by rw [hlayout]) (hswap p)
  exact ⟨hsse, State.framePsnr_congr hlayout hsse⟩

/-! ### `psnr_q` -/

/-- Settles O44: `psnr_q` is the greatest exponent (`le_psnrQ_iff`), so the next one fails, and any other exponent between
the two bounds is neither below nor above it. -/
theorem psnrIsTheDefinedInteger : Obligations.PsnrIsTheDefinedInteger := by
  intro sse n hsse _ hdomain
  have hle {q : Nat} := le_psnrQ_iff (q := q) hsse hdomain
  refine ⟨hle.mp le_rfl, Nat.lt_of_not_le fun h => Nat.not_succ_le_self _ (hle.mpr h), fun q hq hq1 => ?_⟩
  refine Nat.le_antisymm (hle.mpr hq) (Nat.le_of_not_lt fun hlt => ?_)
  exact Nat.not_lt.mpr (hle.mp hlt) hq1

/-- R205 (f): at mean squared error 1 only the peak counts. -/
theorem psnrQ_self {n : Nat} (hn : 1 ≤ n) : psnrQ n n = 12321 := by
  rw [psnrQ, mul_pow, Nat.mul_div_cancel _ (Nat.pow_pos hn)]
  exact Nat.log_eq_of_pow_le_of_lt_pow (by decide +kernel) (by decide +kernel)

/-- R205 (d): the largest error that bytes can have. -/
theorem psnrQ_largest {n : Nat} (hn : 1 ≤ n) : psnrQ (65025 * n) n = 0 := by
  rw [psnrQ, Nat.div_self (Nat.pow_pos (Nat.mul_pos (by decide) hn)), Nat.log_one_right]

/-- Settles O45: the bound is `psnrQ_le`, and each value is one comparison of powers. -/
theorem psnrBounds : Obligations.PsnrBounds := by
  refine ⟨fun sse _ _ hn => psnrQ_le sse hn, ?_, fun _ => psnrQ_largest, fun _ => psnrQ_self⟩
  refine Nat.le_antisymm (psnrQ_le 1 (by norm_num)) ((le_psnrQ_iff (by norm_num) (by norm_num)).mpr ?_)
  decide +kernel

/-- R197: `psnr_q` does not increase with the error. -/
theorem psnrQ_le_of_error_le {e f : Nat} (n : Nat) (he : 1 ≤ e) (hef : e ≤ f) : psnrQ f n ≤ psnrQ e n :=
  Nat.log_mono_right (Nat.div_le_div_left (pow_le_pow_left₀ (Nat.zero_le e) hef _) (pow_pos he _))

/-- R197: `psnr_q` does not decrease with the length. -/
theorem psnrQ_le_of_length_le (e : Nat) {m n : Nat} (hmn : m ≤ n) : psnrQ e m ≤ psnrQ e n :=
  Nat.log_mono_right (Nat.div_le_div_right (pow_le_pow_left₀ (Nat.zero_le _) (Nat.mul_le_mul_left _ hmn) _))

/-- Settles O46: a quotient of powers falls with its divisor and grows with its dividend. -/
theorem psnrIsMonotone : Obligations.PsnrIsMonotone := by
  refine ⟨fun n _ _ => psnrQ_le_of_error_le n, fun e _ _ _ => psnrQ_le_of_length_le e, fun n x y hn hx hxy => ?_⟩
  exact psnrQ_le_of_error_le n (Nat.mul_pos hn (Nat.pow_pos hx)) (Nat.mul_le_mul_left n (Nat.pow_le_pow_left hxy 2))

/-- Settles O49: every squared difference is 1, so the error is the length, and `psnr_q` of the two is `psnrQ_self`. -/
theorem uniformOffsetOfOne : Obligations.UniformOffsetOfOne := by
  intro s p hn hoffset
  have hone : ∀ k, k < (s.regs.layout.get p).len.toNat → squaredError (s.readPl .a p k) (s.readPl .b p k) = 1 := by
    intro k hk
    obtain ⟨ha, hb⟩ := hoffset k hk
    rw [squaredError, toInt_of_byte (by omega), toInt_of_byte (by omega), hb]
    simp
  have hsse : s.sseOf p = (s.regs.layout.get p).len.toNat := by
    rw [State.sseOf_eq_sum, Finset.sum_congr rfl fun k hk => hone k (Finset.mem_range.mp hk)]
    simp
  refine ⟨hsse, ?_⟩
  rw [State.planeWord, hsse, psnrWord, if_neg (Nat.ne_zero_of_lt hn), psnrQ_self hn]

/-! ### The composite -/

/-- R199: a sentinel among the three words makes the composite the sentinel. -/
theorem compositeQ_of_nan {vy vcb vcr : Word} (h : vy = nanWord ∨ vcb = nanWord ∨ vcr = nanWord) :
    compositeQ vy vcb vcr = nanWord := by
  refine if_pos ?_
  simpa [isNan, or_assoc] using h

/-- R45: a legal word that is not the sentinel is a number up to 36981. -/
theorem psnrLegal.le_of_ne {v : Word} (h : psnrLegal v) (hne : v ≠ nanWord) : v.toNat ≤ 36981 := h.resolve_left hne

/-- R199: the composite of three numbers. -/
theorem compositeQ_toNat {vy vcb vcr : Word} (hy : vy.toNat ≤ 36981) (hcb : vcb.toNat ≤ 36981)
    (hcr : vcr.toNat ≤ 36981) : (compositeQ vy vcb vcr).toNat = (6 * vy.toNat + vcb.toNat + vcr.toNat) / 8 := by
  have hnan {v : Word} (hv : v.toNat ≤ 36981) : isNan v = false :=
    beq_false_of_ne fun h => absurd hv (by rw [h]; decide)
  rw [compositeQ, hnan hy, hnan hcb, hnan hcr, if_neg (by decide), BitVec.toNat_ofNat, qField_of_le hy, qField_of_le hcb,
    qField_of_le hcr, Nat.mod_eq_of_lt (by omega)]

/-- Settles O47: legal words are the sentinel or numbers, and the weights of the mean add up to 8. -/
theorem compositeIsTheWeightedMean : Obligations.CompositeIsTheWeightedMean := by
  intro vy vcb vcr hy hcb hcr
  refine ⟨compositeQ_of_nan, fun hny hncb hncr => ?_⟩
  have hyle := hy.le_of_ne hny
  have hcble := hcb.le_of_ne hncb
  have hcrle := hcr.le_of_ne hncr
  have hmean := compositeQ_toNat hyle hcble hcrle
  exact ⟨hmean, by omega⟩

/-! ### `FIN` in READY -/

/-- R202: `FIN` of a session with a used frame. -/
theorem execFin_of_used {s : State} (hready : s.regs.phase = .ready) (hused : s.regs.used ≠ 0#32) :
    execFin s = .next (s.withRegs s.regs.finish) :=
  (whenReady_of_ready hready).trans (if_neg hused)

/-- R204: `FIN` of a session without one. -/
theorem execFin_of_unused {s : State} (hready : s.regs.phase = .ready) (hused : s.regs.used = 0#32) :
    execFin s = raise s .noData 0#1 s.regs.frameIdx :=
  (whenReady_of_ready hready).trans (if_pos hused)

/-- Settles O51: the registers of `Regs.finish`, written out. -/
theorem finWritesTheMeans : Obligations.FinWritesTheMeans := fun _ => execFin_of_used

/-- Settles O53: the check of `FIN`. -/
theorem finWithoutDataFaults : Obligations.FinWithoutDataFaults := fun _ => execFin_of_unused

/-- R203: the mean of a bounded sum of numbers is the floor of the quotient, which no register cuts. -/
theorem meanWord_toNat {sum : Sum48} {used : Word} (h : sum.toNat ≤ 36981 * used.toNat) :
    (meanWord sum used false).toNat = sum.toNat / used.toNat := by
  have hle : sum.toNat / used.toNat ≤ 36981 := Nat.div_le_of_le_mul (h.trans_eq (Nat.mul_comm _ _))
  rw [meanWord, if_neg (by decide), BitVec.toNat_ofNat, Nat.mod_eq_of_lt (by omega)]

/-- Settles O52: the sums are bounded by the invariant, and `FIN` keeps it. -/
theorem meansAreExact : Obligations.MeansAreExact := by
  intro s t hcounters hready hused hfin
  obtain ⟨hy, hcb, hcr, hc⟩ := hcounters.sums
  obtain rfl : s.withRegs s.regs.finish = t := Host.Outcome.next.inj ((execFin_of_used hready hused).symm.trans hfin)
  simp only [State.withRegs_regs, Regs.finish_mean, Series.zip]
  refine ⟨fun h => ?_, fun h => ?_, fun h => ?_, fun h => ?_, hcounters.finish.mean⟩
  · rw [h, meanWord_toNat hy]
  · rw [h, meanWord_toNat hcb]
  · rw [h, meanWord_toNat hcr]
  · rw [h, meanWord_toNat hc]

end Sys2Proof.Machine
end

section
/-! PROOFS. Frame pairs with equal planes, and the canonical program on two identical files (42_metric_accumulator.md R198,
R205 (a), (e); 44_session_sequence.md R240 to R244). -/

namespace Sys2Proof.Machine

/-! ### `SCORE` of equal planes -/

/-- Two sides with equal planes (R195). -/
def State.equalPlanes (s : State) : Prop :=
  ∀ p k, k < (s.regs.layout.get p).len.toNat → s.readPl .a p k = s.readPl .b p k

/-- R198, R205 (a): equal planes have the sentinel in all four words. -/
theorem State.equalPlanes.framePsnr {s : State} (h : s.equalPlanes) :
    s.framePsnr = ⟨nanWord, nanWord, nanWord, nanWord⟩ := by
  have hword : ∀ p, s.planeWord p = nanWord := fun p => if_pos (State.sseOf_eq_zero_iff.mpr (h p))
  rw [State.framePsnr, hword, hword, hword, compositeQ_of_nan (.inl rfl)]

/-- R195: equal planes have error 0. -/
theorem State.equalPlanes.tabulate_sseOf {s : State} (h : s.equalPlanes) : Planes.tabulate s.sseOf = ⟨0, 0, 0⟩ := by
  rw [Planes.tabulate, State.sseOf_eq_zero_iff.mpr (h .y), State.sseOf_eq_zero_iff.mpr (h .cb),
    State.sseOf_eq_zero_iff.mpr (h .cr)]

/-- R198, R200: a used pair with equal planes is counted, sets the four sentinel bits and adds to no sum. -/
theorem State.equalPlanes.scored {s : State} (h : s.equalPlanes) (hused : s.skips = false) :
    s.scored.regs.psnr = ⟨nanWord, nanWord, nanWord, nanWord⟩ ∧ s.scored.regs.sse = ⟨0#48, 0#48, 0#48⟩ ∧
      s.scored.regs.nans = ⟨true, true, true, true⟩ ∧ s.scored.regs.sum = s.regs.sum ∧
      s.scored.regs.used = s.regs.used + 1#32 := by
  rw [State.scored_of_not_skips hused, h.framePsnr, h.tabulate_sseOf]
  refine ⟨rfl, rfl, ?_, rfl, rfl⟩
  simp [Series.zip, nanAfter, isNan]

/-! ### One frame pair of the run -/

/-- Some luma byte of a frame is not 0 (R193). -/
def lumaLit (luma : RangeN) (frame : List Byte) : Prop :=
  ∃ k v, k < luma.len ∧ frame[luma.start + k * luma.stride]? = some v ∧ v ≠ 0#8

/-- The block between two frame pairs of a session on identical files, `i` pairs done (R240): a layout is in force, the
pairs are counted, and every series has met the sentinel as soon as a pair has been used. -/
structure State.ScoringEqualFiles (s : State) (tag : Tag) (wh i : Nat) : Prop where
  config : s.cfg.wf
  layout : s.layoutOf tag wh
  zref : s.regs.zrefLen = s.regs.layout.y.len
  ready : s.regs.phase = .ready
  count : s.regs.frameIdx = BitVec.ofNat 32 i
  used : s.regs.used.toNat ≤ i
  nans : s.regs.used ≠ 0#32 → s.regs.nans = ⟨true, true, true, true⟩

/-- The same frame stands in both buffers, all of it declared (R244). -/
structure State.HoldsTwice (s : State) (frame : List Byte) : Prop where
  size : frame.length = s.regs.frameSize.toNat
  lenA : s.regs.frameSize.toNat ≤ s.regs.lenBytes.a.toNat
  lenB : s.regs.frameSize.toNat ≤ s.regs.lenBytes.b.toNat
  bytes : ∀ side j (h : j < frame.length), s.readFb side j = frame[j]

section Pair

variable {s : State} {tag : Tag} {wh i : Nat} {frame : List Byte}

/-- R29 to R33: a layout in force depends on its registers and the capacity alone. -/
theorem State.layoutOf.of_sameLayout {t : State} (h : s.layoutOf tag wh) (hl : sameLayout s t) (hcfg : t.cfg = s.cfg) :
    t.layoutOf tag wh := by
  obtain ⟨-, hsize, hlayout, -⟩ := hl
  rw [State.layoutOf, hsize, hlayout, hcfg]
  exact h

/-- R7: the lengths of a layout in force fit the plane memories. -/
theorem State.ScoringEqualFiles.lengthsFit (h : s.ScoringEqualFiles tag wh i) : s.lengthsFit = true := by
  have hlen := len_le_of_layoutFits (h.layout.layoutFits h.config)
  simp only [State.lengthsFit, h.zref, Bool.and_eq_true, decide_eq_true_eq]
  exact ⟨⟨⟨hlen .y, hlen .cb⟩, hlen .cr⟩, hlen .y⟩

/-- R170, R172: after `EXT A` and `EXT B` of a frame that stands in both buffers, a sample of either side is its byte of
the frame. -/
theorem State.HoldsTwice.readPl_extractBoth (hold : s.HoldsTwice frame) (h : s.ScoringEqualFiles tag wh i) (side : Side)
    {p : Plane} {k : Nat} (hk : k < (s.regs.layout.get p).len.toNat) :
    ∃ v, frame[(descRange (rom (romIndex tag)) wh p).start + k * (descRange (rom (romIndex tag)) wh p).stride]? =
        some v ∧ s.extractBoth.readPl side p k = v.setWidth 16 := by
  have haddr := (h.layout.address_lt h.config hk).trans_eq hold.size.symm
  refine ⟨frame[(s.regs.layout.get p).address k], ?_, ?_⟩
  · rw [← h.layout.address_eq h.config hk, List.getElem?_eq_getElem haddr]
  · rw [Machine.readPl_extractBoth, if_pos hk, State.sampleAt, hold.bytes side _ haddr]

/-- R195: the planes extracted from such a frame are equal. -/
theorem State.HoldsTwice.equalPlanes (hold : s.HoldsTwice frame) (h : s.ScoringEqualFiles tag wh i) :
    s.extractBoth.equalPlanes := by
  intro p k hk
  obtain ⟨v, hv, ha⟩ := hold.readPl_extractBoth h .a hk
  obtain ⟨u, hu, hb⟩ := hold.readPl_extractBoth h .b hk
  obtain rfl : v = u := Option.some.inj (hv.symm.trans hu)
  exact ha.trans hb.symm

/-- R193: the pair is used exactly when its luma is lit. -/
theorem State.HoldsTwice.skips_eq_false_iff (hold : s.HoldsTwice frame) (h : s.ScoringEqualFiles tag wh i) :
    s.extractBoth.skips = false ↔ lumaLit (descRange (rom (romIndex tag)) wh .y) frame := by
  have hzero (v : Byte) : v.setWidth 16 ≠ 0#16 ↔ v ≠ 0#8 := by
    rw [not_iff_not]
    constructor <;> intro hv <;> bv_omega
  have hzref : s.extractBoth.regs.zrefLen.toNat = (descRange (rom (romIndex tag)) wh .y).len := by
    rw [← h.layout.len_eq h.config]
    exact congrArg BitVec.toNat h.zref
  rw [State.skips_eq_false_iff, hzref, lumaLit]
  refine exists_congr fun k => ?_
  constructor
  · rintro ⟨hk, hne⟩
    obtain ⟨v, hv, hread⟩ := hold.readPl_extractBoth h .b (hk.trans_eq (h.layout.len_eq h.config .y).symm)
    exact ⟨v, hk, hv, (hzero v).mp (hread ▸ hne)⟩
  · rintro ⟨u, hk, hu, hne⟩
    obtain ⟨v, hv, hread⟩ := hold.readPl_extractBoth h .b (hk.trans_eq (h.layout.len_eq h.config .y).symm)
    obtain rfl : v = u := Option.some.inj (hv.symm.trans hu)
    exact ⟨hk, hread ▸ (hzero v).mpr hne⟩

/-- R192: below `2^32 - 1` pairs the frame counter can count one more. -/
theorem State.ScoringEqualFiles.frameIdx_ne_max (h : s.ScoringEqualFiles tag wh i) (hi : i + 1 < 2 ^ 32) :
    s.regs.frameIdx ≠ 0xFFFFFFFF#32 := by
  rw [h.count]
  intro hmax
  have hvalue := congrArg BitVec.toNat hmax
  simp only [BitVec.toNat_ofNat] at hvalue
  omega

/-- R33, R36: after the pair the layout is as before and one more pair is counted. -/
theorem State.ScoringEqualFiles.counted (h : s.ScoringEqualFiles tag wh i)
    (hused : s.extractBoth.scored.regs.used.toNat ≤ i + 1)
    (hnans : s.extractBoth.scored.regs.used ≠ 0#32 → s.extractBoth.scored.regs.nans = ⟨true, true, true, true⟩) :
    s.extractBoth.scored.ScoringEqualFiles tag wh (i + 1) := by
  obtain ⟨hphase, hcount, -⟩ := s.extractBoth.scored_counted
  obtain ⟨-, -, -, -, hlayout, -, hcfg, -⟩ := s.extractBoth.scored_frame
  have hlayout : sameLayout s s.extractBoth.scored := hlayout
  refine ⟨hcfg ▸ h.config, h.layout.of_sameLayout hlayout hcfg, ?_, hphase.trans h.ready, ?_, hused, hnans⟩
  · obtain ⟨-, -, hranges, hzref⟩ := hlayout
    rw [hzref, hranges, h.zref]
  · rw [hcount, BitVec.ofNat_add, ← h.count]
    rfl

/-- R190, R193, R200: the pair is scored, and it is used exactly when its luma is lit. -/
theorem State.ScoringEqualFiles.scored (h : s.ScoringEqualFiles tag wh i) (hold : s.HoldsTwice frame)
    (hi : i + 1 < 2 ^ 32) :
    s.extractBoth.scored.ScoringEqualFiles tag wh (i + 1) ∧
      (s.extractBoth.scored.regs.used ≠ 0#32 ↔
        s.regs.used ≠ 0#32 ∨ lumaLit (descRange (rom (romIndex tag)) wh .y) frame) := by
  have hused := h.used
  have hcounted := h.counted
  rw [← hold.skips_eq_false_iff h]
  cases hskip : s.extractBoth.skips with
  | true =>
    obtain ⟨hsame, hnans⟩ : s.extractBoth.scored.regs.used = s.regs.used ∧
        s.extractBoth.scored.regs.nans = s.regs.nans := by
      rw [State.scored_of_skips hskip]
      exact ⟨rfl, rfl⟩
    rw [hsame, hnans] at hcounted
    rw [hsame]
    exact ⟨hcounted (Nat.le_succ_of_le hused) h.nans, by simp⟩
  | false =>
    obtain ⟨-, -, hnans, -, hone⟩ := (hold.equalPlanes h).scored hskip
    have hone : s.extractBoth.scored.regs.used = s.regs.used + 1#32 := hone
    have hsucc : s.extractBoth.scored.regs.used.toNat = s.regs.used.toNat + 1 := by bv_omega
    have hne : s.extractBoth.scored.regs.used ≠ 0#32 := by bv_omega
    exact ⟨hcounted (by omega) fun _ => hnans, by simp [hne]⟩

/-- R26 to R28: between the pairs only the declared lengths and the memories may change. -/
theorem State.ScoringEqualFiles.of_regs (h : s.ScoringEqualFiles tag wh i) {t : State} {lens : Sides Word}
    (hcfg : t.cfg = s.cfg) (hregs : t.regs = { s.regs with lenBytes := lens }) : t.ScoringEqualFiles tag wh i := by
  have hlayout : sameLayout s t := by rw [sameLayout, hregs]; exact ⟨rfl, rfl, rfl, rfl⟩
  refine ⟨hcfg ▸ h.config, h.layout.of_sameLayout hlayout hcfg, ?_, ?_, ?_, ?_, ?_⟩ <;> rw [hregs]
  exacts [h.zref, h.ready, h.count, h.used, h.nans]

/-- R40, R75: a host read changes nothing of the run. -/
theorem State.ScoringEqualFiles.answering (h : s.ScoringEqualFiles tag wh i) (v : CellValue) :
    (s.answering v).ScoringEqualFiles tag wh i := h.of_regs rfl rfl

/-- R241, step 3: the host sees no fault and reads the frame size. -/
theorem State.ScoringEqualFiles.runHost_readFrameSize (h : s.ScoringEqualFiles tag wh i) (k : Nat → HostProgram) :
    ∃ t, runHost (unlessFaultSeen (readRegister 17 fun fs => k fs.toNat)) s =
        runHost (k (frameBytes (descClass (rom (romIndex tag))) wh)) t ∧ t.ScoringEqualFiles tag wh i := by
  refine ⟨(s.answering (.reg s.regs.statusWord)).answering (.reg s.regs.frameSize), ?_, (h.answering _).answering _⟩
  rw [runHost_unlessFaultSeen_of_not_faulted _ (by rw [h.ready]; decide), runHost_readRegister,
    ← h.layout.frameSize_eq h.config]
  rfl

/-- R241, step 4: the host loads a frame of the layout's size on both sides, has the pair scored, sees no fault and goes
on. -/
theorem State.ScoringEqualFiles.runHost_framePair (h : s.ScoringEqualFiles tag wh i) (hi : i + 1 < 2 ^ 32)
    (hframe : frame.length = frameBytes (descClass (rom (romIndex tag))) wh) (k : HostProgram) :
    ∃ t, runHost (issue (framePair frame frame) (unlessFaultSeen k)) s = runHost k t ∧
      t.ScoringEqualFiles tag wh (i + 1) ∧
      (t.regs.used ≠ 0#32 ↔ s.regs.used ≠ 0#32 ∨ lumaLit (descRange (rom (romIndex tag)) wh .y) frame) := by
  obtain ⟨-, hmax⟩ := h.config
  obtain ⟨-, -, hfits, -, -⟩ := id h.layout
  have hsize := hframe.trans (h.layout.frameSize_eq h.config).symm
  have hcap : frame.length ≤ s.cfg.fbBytes := hframe.trans_le hfits
  obtain ⟨u, hload, hregs, -, hcfg, -, hbytesA, hbytesB⟩ :=
    Machine.runHost_framePair frame frame (unlessFaultSeen k) s hcap hcap
  have hu := h.of_regs hcfg hregs
  have hlen : (BitVec.ofNat 32 frame.length).toNat = frame.length := by
    rw [BitVec.toNat_ofNat, Nat.mod_eq_of_lt (by omega)]
  have hold : u.HoldsTwice frame := by
    refine ⟨by rw [hregs]; exact hsize, ?_, ?_, fun side j hj => ?_⟩
    · rw [hregs]; exact (hsize.symm.trans hlen.symm).le
    · rw [hregs]; exact (hsize.symm.trans hlen.symm).le
    · cases side
      · exact hbytesA j hj
      · exact hbytesB j hj
  obtain ⟨hscored, hused⟩ := hu.scored hold hi
  have hexec : perform .frame u = .next u.extractBoth.scored := execFrame_of_loaded hu.ready hold.lenA hold.lenB
    (hu.layout.layoutFits hu.config) hu.lengthsFit (hu.frameIdx_ne_max hi)
  refine ⟨_, ?_, hscored.answering (.reg u.extractBoth.scored.regs.statusWord), ?_⟩
  · rw [hload, runHost_issue_cons hexec, issue_nil,
      runHost_unlessFaultSeen_of_not_faulted k (by rw [hscored.ready]; decide)]
  · rw [show s.regs.used = u.regs.used by rw [hregs]]
    exact hused

end Pair

/-! ### The whole run -/

/-- R241, step 4: the whole loop over equal frames, up to `FIN`; a pair has been used exactly when some frame is lit. -/
theorem State.ScoringEqualFiles.runHost_scoreFrames {tag : Tag} {wh : Nat} :
    ∀ (frames : List (List Byte)) {s : State} {i : Nat}, s.ScoringEqualFiles tag wh i →
      (∀ f ∈ frames, f.length = frameBytes (descClass (rom (romIndex tag))) wh) → i + frames.length < 2 ^ 32 →
      ∃ t, runHost (scoreFrames (frames.map fun f => (f, f))) s = runHost finishSession t ∧
        t.ScoringEqualFiles tag wh (i + frames.length) ∧
        (t.regs.used ≠ 0#32 ↔
          s.regs.used ≠ 0#32 ∨ ∃ f ∈ frames, lumaLit (descRange (rom (romIndex tag)) wh .y) f)
  | [], s, _, h, _, _ => ⟨s, rfl, h, by simp⟩
  | f :: frames, s, i, h, hsize, hi => by
    rw [List.length_cons] at hi ⊢
    obtain ⟨u, hpair, hu, hused⟩ := h.runHost_framePair (by omega) (hsize f List.mem_cons_self)
      (scoreFrames (frames.map fun f => (f, f)))
    obtain ⟨t, hrest, ht, hused'⟩ := runHost_scoreFrames frames hu
      (fun g hg => hsize g (List.mem_cons_of_mem f hg)) (by omega)
    refine ⟨t, hpair.trans hrest, by rwa [Nat.add_assoc, Nat.add_comm 1] at ht, ?_⟩
    rw [hused', hused, or_assoc, List.exists_mem_cons_iff]

/-- R241, step 5: when a pair has been used, the report is the sentinel four times. -/
theorem State.ScoringEqualFiles.runHost_finish_of_used {s : State} {tag : Tag} {wh i : Nat}
    (h : s.ScoringEqualFiles tag wh i) (hused : s.regs.used ≠ 0#32) :
    ∃ t, runHost finishSession s = .next (t, .result ⟨nanWord, nanWord, nanWord, nanWord⟩) := by
  obtain ⟨hdone, -⟩ := runHost_finishSession (execFin_of_used h.ready hused)
  obtain ⟨t, hrun, -⟩ := hdone rfl
  have hmean : (s.withRegs s.regs.finish).regs.mean = ⟨nanWord, nanWord, nanWord, nanWord⟩ := by
    rw [State.withRegs_regs, Regs.finish_mean, h.nans hused]
    rfl
  exact ⟨t, hmean ▸ hrun⟩

/-- R241, step 5: when no pair has been used, the report is `NO_DATA` with the frame count (R204). -/
theorem State.ScoringEqualFiles.runHost_finish_of_unused {s : State} {tag : Tag} {wh i : Nat}
    (h : s.ScoringEqualFiles tag wh i) (hused : s.regs.used = 0#32) :
    ∃ t, runHost finishSession s = .next (t, .failure 3#32 (BitVec.ofNat 32 i)) := by
  obtain ⟨-, hfault⟩ := runHost_finishSession (execFin_of_unused h.ready hused)
  obtain ⟨t, hrun, -⟩ := hfault nofun
  have hcause : (s.enterFault .noData 0#1 s.regs.frameIdx).regs.causeWord = 3#32 :=
    show (0#23 ++ 0#1 ++ 3#8 : BitVec 32) = 3#32 by decide
  rw [hcause, State.enterFault_regs, Regs.enterFault_finfo, h.count] at hrun
  exact ⟨t, hrun⟩

/-- The block as `INIT` of the canonical program finds it: soft reset, then the four configuration writes (R241, R303). -/
def State.configured (s : State) (w h : Nat) (fmtIn fmtOut : Tag) : State :=
  s.withRegs { Regs.zero with
    width := BitVec.ofNat 16 w, height := BitVec.ofNat 16 h, fmtIn := fmtIn, fmtOut := fmtOut }

/-- R26: dimensions below `2^16` stand in their registers uncut. -/
theorem State.configured_dimensions (s : State) {w h : Nat} (hw : w < 2 ^ 16) (hh : h < 2 ^ 16) (fmtIn fmtOut : Tag) :
    (s.configured w h fmtIn fmtOut).regs.width.toNat = w ∧ (s.configured w h fmtIn fmtOut).regs.height.toNat = h :=
  ⟨(BitVec.toNat_ofNat w 16).trans (Nat.mod_eq_of_lt hw), (BitVec.toNat_ofNat h 16).trans (Nat.mod_eq_of_lt hh)⟩

/-- R130, R139: the session that `INIT` opens starts with no pair done. -/
theorem openSession_scoringEqualFiles {s : State} {tag : Tag} {wh : Nat} (hcfg : s.cfg.wf) (htag : tag.toNat ≤ 6)
    (hwh : 1 ≤ wh) (hfits : frameBytes (descClass (rom (romIndex tag))) wh ≤ s.cfg.fbBytes) :
    (s.withRegs (s.regs.openSession (rom (romIndex tag)) wh)).ScoringEqualFiles tag wh 0 where
  config := hcfg
  layout := ⟨htag, hwh, hfits, rfl, rfl⟩
  zref := congrArg (BitVec.ofNat 32) (descRange_y_len htag wh).symm
  ready := rfl
  count := rfl
  used := Nat.le_refl 0
  nans := (absurd rfl ·)

/-- R241, steps 1 to 3: in a legal configuration the session is opened, and the host goes on with the frame pairs of the
size it has read. -/
theorem runFiles_opens {s : State} {w h : Nat} {fmtIn fmtOut : Tag} (file : List Byte) (cap : Option Nat)
    (hcfg : s.cfg.wf) (hw : 1 ≤ w ∧ w < 2 ^ 16) (hh : 1 ≤ h ∧ h < 2 ^ 16) (hin : fmtIn.toNat ≤ 6)
    (hout : fmtOut.toNat ≤ 6) (harea : minArea (descClass (rom (romIndex fmtIn))) ≤ w * h)
    (hfits : frameBytes (descClass (rom (romIndex fmtIn))) (w * h) ≤ s.cfg.fbBytes) :
    ∃ t, runFiles w h fmtIn fmtOut file file cap s = runHost (scoreFrames (framePairs (wholeFile file) (wholeFile file)
        (frameBytes (descClass (rom (romIndex fmtIn))) (w * h)) cap)) t ∧
      t.ScoringEqualFiles fmtIn (w * h) 0 := by
  obtain ⟨hwidth, hheight⟩ := s.configured_dimensions hw.2 hh.2 fmtIn fmtOut
  have harea' : (s.configured w h fmtIn fmtOut).regs.area = w * h := by rw [Regs.area, hwidth, hheight]
  have hstart : (s.configured w h fmtIn fmtOut).InitReady :=
    ⟨nofun, hout, hw.1.trans_eq hwidth.symm, hh.1.trans_eq hheight.symm, hcfg⟩
  have hinit := initWith_of_passed (hstart.passed hin (harea'.symm ▸ harea) (harea'.symm ▸ hfits))
  rw [harea'] at hinit
  have hopened := openSession_scoringEqualFiles (s := s.configured w h fmtIn fmtOut) hcfg hin (Nat.mul_pos hw.1 hh.1) hfits
  obtain ⟨t, hread, ht⟩ := hopened.runHost_readFrameSize fun fs =>
    scoreFrames (framePairs (wholeFile file) (wholeFile file) fs cap)
  exact ⟨t, (runHost_configure w h fmtIn fmtOut _ hinit).trans hread, ht⟩

/-- R243, R244: the pairs of two identical files are equal frames. -/
theorem framePairs_self (file : List Byte) (fs : Nat) (cap : Option Nat) :
    framePairs (wholeFile file) (wholeFile file) fs cap =
      ((List.range (frameCount file.length file.length fs cap)).map (frameOf file fs)).map fun f => (f, f) := by
  rw [List.map_map]
  rfl

/-- R243: a frame that is counted lies inside the file. -/
theorem frame_end_le_length {file : List Byte} {fs i : Nat} {cap : Option Nat}
    (hi : i < frameCount file.length file.length fs cap) : i * fs + fs ≤ file.length := by
  have hle : frameCount file.length file.length fs cap ≤ file.length / fs := by
    unfold frameCount framesAvailable
    split <;> omega
  calc i * fs + fs = (i + 1) * fs := (Nat.succ_mul i fs).symm
    _ ≤ file.length / fs * fs := Nat.mul_le_mul_right fs (by omega)
    _ ≤ file.length := Nat.div_mul_le_self _ _

/-- R244: a frame that is counted is whole. -/
theorem length_frameOf {file : List Byte} {fs i : Nat} {cap : Option Nat}
    (hi : i < frameCount file.length file.length fs cap) : (frameOf file fs i).length = fs := by
  have hend := frame_end_le_length hi
  rw [frameOf, List.length_take, List.length_drop]
  omega

/-- R244: a byte of a frame is a byte of the file. -/
theorem getElem?_frameOf (file : List Byte) (i : Nat) {fs a : Nat} (ha : a < fs) :
    (frameOf file fs i)[a]? = file[i * fs + a]? := by
  rw [frameOf, List.getElem?_take_of_lt ha, List.getElem?_drop]

/-- Settles O50: `SCORE` by `State.equalPlanes.scored`; the run by its three parts, opening, loop and `FIN`, where the two
hypotheses say whether a frame is lit. -/
theorem equalPlanesScoreTheSentinel : Obligations.EqualPlanesScoreTheSentinel := by
  constructor
  · intro s hready hpv hidx hfit hlit hequal
    obtain ⟨hpsnr, hsse, hnans, hsum, hused⟩ :=
      State.equalPlanes.scored (s := s) hequal (State.skips_eq_false_iff.mpr hlit)
    exact ⟨s.scored, execScore_of_extracted hready hpv hidx hfit, hpsnr, hsse, hnans, hsum, hused⟩
  intro s w h fmtIn fmtOut file cap hcfg hw hw' hh hh' hin hout d fs luma n harea hfits hn
  obtain ⟨u, hopen, hu⟩ := runFiles_opens file cap hcfg ⟨hw, hw'⟩ ⟨hh, hh'⟩ hin hout harea hfits
  have hu0 : u.regs.used = 0#32 := BitVec.eq_of_toNat_eq (Nat.le_zero.mp hu.used)
  have hwhole : ∀ f ∈ (List.range n).map (frameOf file fs), f.length = fs := by
    simp only [List.forall_mem_map, List.mem_range]
    exact fun i => length_frameOf
  obtain ⟨t, hloop, ht, hused⟩ := hu.runHost_scoreFrames _ hwhole (by simpa using hn)
  rw [← framePairs_self] at hloop
  have hrun := hopen.trans hloop
  have hbyte {i k : Nat} (hk : k < luma.len) : (frameOf file fs i)[luma.start + k * luma.stride]? =
      file[i * fs + (luma.start + k * luma.stride)]? :=
    getElem?_frameOf file i ((lt_descRange_len_iff.mp hk).trans_le (descRange_stop_le d _ _))
  simp only [hu0, ne_eq, not_true, false_or, List.mem_map, List.mem_range, exists_exists_and_eq_and] at hused
  refine ⟨fun ⟨i, k, v, hi, hk, hv, hne⟩ => ?lit, fun hdark => ?dark⟩
  case lit =>
    have hlit : lumaLit luma (frameOf file fs i) := ⟨k, v, hk, (hbyte hk).trans hv, hne⟩
    obtain ⟨t', hfin⟩ := ht.runHost_finish_of_used (hused.mpr ⟨i, hi, hlit⟩)
    exact ⟨t', hrun.trans hfin⟩
  case dark =>
    have hnone : ¬ ∃ i, i < n ∧ lumaLit luma (frameOf file fs i) := by
      rintro ⟨i, hi, k, v, hk, hv, hne⟩
      exact hne (Option.some.inj (hv.symm.trans ((hbyte hk).trans (hdark i k hi hk))))
    obtain ⟨t', hfin⟩ := ht.runHost_finish_of_unused (not_not.mp (mt hused.mp hnone))
    rw [List.length_map, List.length_range, Nat.zero_add] at hfin
    exact ⟨t', hrun.trans hfin⟩

end Sys2Proof.Machine
end

section
/-! PROOFS. The control commands and the phase machine (43_control_commands.md R230 to R233): where each instruction leads
from each phase, what `NOP` and `SRST` do, and the commands out of sequence (60_exceptions.md R261). -/

namespace Sys2Proof.Machine

/-! ### Where each command leads -/

/-- R130: `INIT` ends in FAULTED, or it has opened a session. -/
theorem initWith_phase {tag : Tag} {s t : State} (h : initWith tag s = .next t) :
    t.regs.phase = .faulted ∨ s.regs.phase ≠ .faulted ∧ t.regs.phase = .ready := by
  obtain ⟨u, hu, hcases⟩ := initWith_cases tag s
  obtain rfl : u = t := by simpa [hu] using h
  rcases hcases with ⟨hfaulted, rfl⟩ | ⟨-, _, _, _, -, rfl⟩ | ⟨hpassed, rfl⟩
  · exact .inl hfaulted
  · exact .inl rfl
  · exact .inr ⟨hpassed.open_, rfl⟩

/-- A command of an open session keeps it open, or it ends in FAULTED. -/
def readyOrFaulted (s t : State) : Prop :=
  t.regs.phase = .faulted ∨ s.regs.phase = .ready ∧ t.regs.phase = .ready

/-- Of two commands in a row the second has an open session, or FAULTED, which it does not leave. -/
theorem readyOrFaulted.trans {s t u : State} (h₁ : readyOrFaulted s t) (h₂ : readyOrFaulted t u) :
    readyOrFaulted s u := by
  rcases h₂ with hu | ⟨ht, hu⟩
  · exact .inl hu
  rcases h₁ with hfaulted | ⟨hs, -⟩
  · exact absurd (hfaulted.symm.trans ht) nofun
  · exact .inr ⟨hs, hu⟩

/-- R170: `EXT` works in READY and stays there. -/
theorem execExt_phase {side : Side} {s t : State} (h : execExt side s = .next t) : readyOrFaulted s t := by
  rcases execExt_next h with ⟨hfaulted, rfl⟩ | ⟨-, _, _, _, -, rfl⟩ | ⟨hready, -, -, rfl⟩
  · exact .inl hfaulted
  · exact .inl rfl
  · exact .inr ⟨hready, hready⟩

/-- R190: `SCORE` works in READY and stays there. -/
theorem execScore_phase {s t : State} (h : execScore s = .next t) : readyOrFaulted s t := by
  rcases execScore_next h with ⟨hfaulted, rfl⟩ | ⟨-, _, _, _, -, rfl⟩ | ⟨hready, -, -, -, -, rfl⟩
  · exact .inl hfaulted
  · exact .inl rfl
  · exact .inr ⟨hready, s.scored_counted.1.trans hready⟩

/-- R232: `FRAME` works in READY and stays there, as its three commands do. -/
theorem execFrame_phase {s t : State} (h : execFrame s = .next t) : readyOrFaulted s t := by
  obtain ⟨u, v, ha, hb, hscore⟩ := execFrame_next h
  exact ((execExt_phase ha).trans (execExt_phase hb)).trans (execScore_phase hscore)

/-- R202: `FIN` works in READY and leads to DONE. -/
theorem execFin_phase {s t : State} (h : execFin s = .next t) :
    t.regs.phase = .faulted ∨ s.regs.phase = .ready ∧ t.regs.phase = .done := by
  rcases execFin_next h with ⟨hfaulted, rfl⟩ | ⟨-, _, _, _, -, rfl⟩ | ⟨hready, -, rfl⟩
  · exact .inl hfaulted
  · exact .inl rfl
  · exact .inr ⟨hready, rfl⟩

/-- R105, R107: a row that only raises a fault ends in FAULTED. -/
theorem raised_phase {s t : State} {code : FaultCode} {sel : BitVec 1} {info : Word}
    (h : unlessFaulted s (raise s code sel info) = .next t) : t.regs.phase = .faulted := by
  rcases unlessFaulted_next h with ⟨hfaulted, rfl⟩ | ⟨-, h⟩
  · exact hfaulted
  · cases h
    rfl

/-! ### The phase table -/

/-- R233: only `NOP` and `SRST` cannot fail. -/
theorem faulted_mem_nextPhases {i : Instr} (p : Phase) (hnop : i ≠ .nop) (hsrst : i ≠ .srst) :
    .faulted ∈ nextPhases i p := by
  unfold nextPhases
  split
  · exact absurd rfl hnop
  · exact absurd rfl hsrst
  all_goals simp

/-- R233: outside FAULTED the rows that open a session may lead to READY. -/
theorem ready_mem_nextPhases {i : Instr} {p : Phase} (hopens : opensSession i = true) (hp : p ≠ .faulted) :
    .ready ∈ nextPhases i p := by
  unfold nextPhases
  split <;> simp_all [opensSession]

/-- R233: an instruction that can fail meets the table if its one success does. -/
theorem phase_mem_nextPhases {i : Instr} {s t : State} {p q : Phase} (hnop : i ≠ .nop) (hsrst : i ≠ .srst)
    (hq : q ∈ nextPhases i p) (h : t.regs.phase = .faulted ∨ s.regs.phase = p ∧ t.regs.phase = q) :
    t.regs.phase ∈ nextPhases i s.regs.phase := by
  rcases h with ht | ⟨rfl, rfl⟩
  · exact ht ▸ faulted_mem_nextPhases _ hnop hsrst
  · exact hq

/-- Settles O22: the rows that open a session by `initWith_phase`, the others each by where their command leads. -/
theorem phaseMachine : Obligations.PhaseMachine := by
  intro i s t h
  by_cases hopens : opensSession i = true
  · obtain ⟨tag, hinit⟩ := exec_eq_initWith hopens s
    have hnop : i ≠ .nop := by rintro rfl; cases hopens
    have hsrst : i ≠ .srst := by rintro rfl; cases hopens
    rcases initWith_phase (hinit.symm.trans h) with ht | ⟨hs, ht⟩
    · exact ht ▸ faulted_mem_nextPhases _ hnop hsrst
    · exact ht ▸ ready_mem_nextPhases hopens hs
  cases i with
  | nop => cases h; exact List.mem_singleton_self _
  | srst => cases h; exact List.mem_singleton_self _
  | ext side => exact phase_mem_nextPhases nofun nofun List.mem_cons_self (execExt_phase h)
  | score => exact phase_mem_nextPhases nofun nofun List.mem_cons_self (execScore_phase h)
  | frame => exact phase_mem_nextPhases nofun nofun List.mem_cons_self (execFrame_phase h)
  | fin => exact phase_mem_nextPhases nofun nofun List.mem_cons_self (execFin_phase h)
  | illegal _ => exact raised_phase h ▸ faulted_mem_nextPhases _ nofun nofun
  | unsupportedTag _ _ => exact raised_phase h ▸ faulted_mem_nextPhases _ nofun nofun
  | _ => exact absurd rfl hopens

/-! ### `NOP` and `SRST` -/

/-- Settles O16: the word is evaluated, and the row of `NOP` is the state itself. -/
theorem nopChangesNothing : Obligations.NopChangesNothing := ⟨by decide, fun _ => rfl⟩

/-- R301: after reset each of the 64 words reads 0. -/
theorem Regs.read_zero (i : Fin 64) : Regs.zero.read i = 0#32 := by
  unfold Regs.read
  split <;> rfl

/-- Settles O17: `SRST` answers `State.softReset`, whose registers are those of both hardware resets. -/
theorem srstClearsEveryRegister : Obligations.SrstClearsEveryRegister :=
  ⟨by decide, fun s => ⟨s.softReset, rfl, rfl, rfl, Regs.read_zero, rfl, rfl, rfl,
    ⟨fun _ _ => rfl, fun _ _ _ => rfl⟩, rfl, rfl, rfl, rfl⟩⟩

/-! ### Commands out of sequence -/

/-- R233, R261: a command of an open session raises `SEQUENCE` with its word in IDLE and DONE. -/
theorem whenReady_out_of_sequence {s : State} (hclosed : s.regs.phase = .idle ∨ s.regs.phase = .done) (word : Word)
    (k : Result) : whenReady s word k = .next (s.faultedWith 7#8 0#1 word) := by
  rcases hclosed with hp | hp <;> exact whenReady_of_other (by simp [hp]) (by simp [hp])

/-- R232, R267: when `EXT A` faults, the other two commands of `FRAME` are ignored. -/
theorem execFrame_of_ext_faulted {s u : State} (hext : execExt .a s = .next u) (hu : u.regs.phase = .faulted) :
    execFrame s = .next u := by
  have hextB : execExt .b u = .next u := whenReady_of_faulted hu
  have hscore : execScore u = .next u := whenReady_of_faulted hu
  rw [execFrame, hext, next_andThen, hextB, next_andThen, hscore]

/-- Settles O23: each command by `whenReady_out_of_sequence`; `FRAME` ends where its `EXT A` does. -/
theorem commandsOutOfSequenceFault : Obligations.CommandsOutOfSequenceFault := by
  intro s hclosed
  have hextA : execExt .a s = .next (s.faultedWith 7#8 0#1 (extWord .a)) := whenReady_out_of_sequence hclosed _ _
  exact ⟨hextA, whenReady_out_of_sequence hclosed _ _, whenReady_out_of_sequence hclosed _ _,
    whenReady_out_of_sequence hclosed _ _, execFrame_of_ext_faulted hextA rfl⟩

end Sys2Proof.Machine
end

section
/-! PROOFS. Fault entry and the fault state (60_exceptions.md R262, R267): a command that ends in FAULTED has done a fault
entry and nothing else, what the host reads after one, and what FAULTED ignores. -/

namespace Sys2Proof.Machine

/-! ### A command that ends in FAULTED -/

/-- R262: of the three things a command can do, only fault entry leads from an open phase to FAULTED. -/
theorem exists_enterFault_of_cases {s t : State} {Worked : Prop} (hopen : s.regs.phase ≠ .faulted)
    (ht : t.regs.phase = .faulted)
    (hcases : (s.regs.phase = .faulted ∧ t = s)
      ∨ (s.regs.phase ≠ .faulted ∧ ∃ code sel info, selectorOk code sel ∧ t = s.enterFault code sel info) ∨ Worked)
    (hworked : Worked → t.regs.phase ≠ .faulted) : ∃ code sel info, t = s.enterFault code sel info := by
  rcases hcases with ⟨hfaulted, -⟩ | ⟨-, code, sel, info, -, heq⟩ | hwork
  · exact absurd hfaulted hopen
  · exact ⟨code, sel, info, heq⟩
  · exact absurd ht (hworked hwork)

/-- R105, R107: a row that only raises a fault does its fault entry in every open phase. -/
theorem raised_eq_enterFault {s t : State} {code : FaultCode} {sel : BitVec 1} {info : Word}
    (hopen : s.regs.phase ≠ .faulted) (h : unlessFaulted s (raise s code sel info) = .next t) :
    t = s.enterFault code sel info := by
  rw [unlessFaulted_of_not_faulted hopen] at h
  cases h
  rfl

/-- R262: an instruction of one command that leads to FAULTED has done a fault entry and nothing else. -/
theorem exec_exists_enterFault {i : Instr} {s t : State} (hframe : i ≠ .frame) (hopen : s.regs.phase ≠ .faulted)
    (h : exec i s = .next t) (ht : t.regs.phase = .faulted) : ∃ code sel info, t = s.enterFault code sel info := by
  by_cases hopens : opensSession i = true
  · obtain ⟨tag, hinit⟩ := exec_eq_initWith hopens s
    obtain ⟨u, hu, hcases⟩ := initWith_cases tag s
    obtain rfl : u = t := by simpa [hinit, hu] using h
    exact exists_enterFault_of_cases hopen ht hcases (by rintro ⟨-, rfl⟩; exact nofun)
  cases i with
  | nop => cases h; exact absurd ht hopen
  | srst => cases h; cases ht
  | ext side => exact exists_enterFault_of_cases hopen ht (execExt_next h) (by rintro ⟨-, -, -, rfl⟩; exact hopen)
  | score =>
    refine exists_enterFault_of_cases hopen ht (execScore_next h) ?_
    rintro ⟨-, -, -, -, -, rfl⟩
    exact s.scored_counted.1 ▸ hopen
  | fin => exact exists_enterFault_of_cases hopen ht (execFin_next h) (by rintro ⟨-, -, rfl⟩; exact nofun)
  | frame => exact absurd rfl hframe
  | illegal _ => exact ⟨_, _, _, raised_eq_enterFault hopen h⟩
  | unsupportedTag _ _ => exact ⟨_, _, _, raised_eq_enterFault hopen h⟩
  | _ => exact absurd rfl hopens

/-! ### What the host reads after fault entry -/

/-- R25: `CAUSE` is `{SEL, CODE}`. -/
theorem causeWord_eq_or (r : Regs) : r.causeWord = (r.causeSel.setWidth 32 <<< 8) ||| r.causeCode.setWidth 32 := by
  have hsel : ∀ sel : BitVec 1, sel.setWidth 32 <<< 8 = ((0#23 ++ sel) ++ 0#8 : BitVec 32) := by decide
  have hcode : r.causeCode.setWidth 32 = (0#24 ++ r.causeCode : BitVec 32) := BitVec.setWidth_eq_append (by decide)
  rw [hsel, hcode, BitVec.or_append, BitVec.or_zero, BitVec.zero_or, Regs.causeWord]

/-- R23, R262: fault entry sets both bits of `STATUS.PHASE` and keeps the rest of `STATUS`. -/
theorem statusWord_enterFault (r : Regs) (code : FaultCode) (sel : BitVec 1) (info : Word) :
    (r.enterFault code sel info).statusWord = r.statusWord ||| 3#32 := by
  have hphase : phaseCode r.phase ||| 3#2 = 3#2 := by cases r.phase <;> rfl
  have hthree : 3#32 = (0#30 ++ 3#2 : BitVec 32) := rfl
  rw [hthree, Regs.statusWord, Regs.statusWord, BitVec.or_append, hphase, BitVec.or_zero]
  rfl

/-- R262: fault entry reaches no register word but `STATUS`, `CAUSE` and `FINFO`. -/
theorem Regs.read_enterFault_other (r : Regs) (code : FaultCode) (sel : BitVec 1) (info : Word) {j : Fin 64}
    (hj : 3 < j.val ∨ j.val = 0) : (r.enterFault code sel info).read j = r.read j := by
  obtain ⟨j, hlt⟩ := j
  simp only at hj
  rcases hj with hj | rfl
  · interval_cases j <;> rfl
  · rfl

/-- Settles O20: the first part is `exec_exists_enterFault`, the words are read one lemma each. -/
theorem faultEntryWritesTheRecordAlone : Obligations.FaultEntryWritesTheRecordAlone :=
  ⟨fun _ _ _ => exec_exists_enterFault, fun s code sel info =>
    ⟨causeWord_eq_or _, rfl, rfl, statusWord_enterFault _ code sel info,
      fun _ hj => s.regs.read_enterFault_other code sel info hj, ⟨fun _ _ => rfl, fun _ _ _ => rfl⟩, rfl, rfl, rfl, rfl⟩⟩

/-! ### What FAULTED ignores -/

/-- R267: in FAULTED every instruction but `SRST` is ignored. -/
theorem exec_of_faulted {i : Instr} {s : State} (hfaulted : s.regs.phase = .faulted) (hsrst : i ≠ .srst) :
    exec i s = .next s := by
  by_cases hopens : opensSession i = true
  · obtain ⟨tag, hinit⟩ := exec_eq_initWith hopens s
    exact hinit.trans (unlessFaulted_of_faulted hfaulted)
  cases i with
  | nop => rfl
  | srst => exact absurd rfl hsrst
  | ext _ => exact whenReady_of_faulted hfaulted
  | score => exact whenReady_of_faulted hfaulted
  | fin => exact whenReady_of_faulted hfaulted
  | frame => exact execFrame_of_ext_faulted (whenReady_of_faulted hfaulted) hfaulted
  | illegal _ => exact unlessFaulted_of_faulted hfaulted
  | unsupportedTag _ _ => exact unlessFaulted_of_faulted hfaulted
  | _ => exact absurd rfl hopens

/-- R103: `0x0000000F` is the one word that decodes to `SRST`. -/
theorem decodeCmd_ne_srst {c : Word} (hc : c ≠ srstWord) : decodeCmd c ≠ .srst := by
  intro h
  have hword : Code.cmd32 srstWord = .cmd32 c := by simpa [h, encode] using encode_decodeCmd c
  cases hword
  exact hc rfl

/-- Settles O21: commands by `exec_of_faulted`; the host's other accesses do not look at the phase. -/
theorem faultedIgnoresAllButSrst : Obligations.FaultedIgnoresAllButSrst := by
  intro s hfaulted
  refine ⟨fun _ => exec_of_faulted hfaulted, ?command, ?register, ?byte, ?reading⟩
  case command => exact fun _ _ hport hc => (step_of_port hport).trans (exec_of_faulted hfaulted (decodeCmd_ne_srst hc))
  case register => exact fun _ v _ hport hi => (step_of_port hport).trans (perform_writeReg hi v _)
  case byte =>
    intro side a v rest hport ha
    exact ⟨_, (step_of_port hport).trans (perform_writeFb _ side v ha),
      (readFb_writeFb _ side side a a v).trans (if_pos ⟨rfl, rfl⟩), rfl⟩
  case reading => exact fun _ _ hport => step_of_port hport

end Sys2Proof.Machine
end

section
/-! PROOFS. Hardware reset (70_reset_and_hazards.md R300 to R302): what the host finds in a block that has just been reset,
and a block with no access pending. -/

namespace Sys2Proof.Machine

/-! ### Memories that list no written cell -/

/-- R302: no frame-buffer cell of empty frame buffers holds a specified value. -/
theorem read?_fb_of_empty {s : State} (hfb : s.fb = ⟨[], []⟩) (side : Side) (a : Nat) :
    Memory.read? (s.fb.get side) a = none := by
  rw [hfb]
  cases side <;> exact Memory.read?_nil a

/-- R302: no plane cell of empty plane memories holds a specified value. -/
theorem read?_pl_of_empty {s : State} (hpl : s.pl = ⟨⟨[], [], []⟩, ⟨[], [], []⟩⟩) (side : Side) (p : Plane) (k : Nat) :
    Memory.read? ((s.pl.get side).get p) k = none := by
  rw [hpl]
  cases side <;> cases p <;> exact Memory.read?_nil k

/-! ### What the block does after reset -/

/-- R133 (a), R301: every register 0 is a supported pair of tags with no dimensions, so `INIT` raises `BAD_RESOLUTION`. -/
theorem exec_init_reset : exec .init State.reset = .next (State.reset.faultedWith 4#8 0#1 0#32) :=
  initWith_of_zero_dimension (tag := 0#8) (s := State.reset) nofun (Nat.zero_le 6) (Nat.zero_le 6) (.inl rfl)

/-- R301: with no access pending the block does nothing. -/
theorem step_of_port_nil {s : State} (hport : s.port = []) : step s = .next s := by
  rw [step, takeEvent, hport]

/-- R300: a step that takes the hardware-reset event resets the block and leaves the later events pending. -/
theorem step_hardwareReset {s : State} {rest : List Access} (hport : s.port = .hardwareReset :: rest) :
    step s = .next { s with port := rest }.hardwareReset :=
  step_of_port hport

/-- Settles O15: both reset states have the registers `Regs.zero` and empty memories; the event is `step_hardwareReset`. -/
theorem hardwareResetClearsTheBlock : Obligations.HardwareResetClearsTheBlock := by
  refine ⟨Regs.read_zero, read?_fb_of_empty (s := State.reset) rfl, read?_pl_of_empty (s := State.reset) rfl,
    exec_init_reset, fun _ => step_of_port_nil, fun s rest hport => ?event⟩
  case event =>
    exact ⟨_, step_hardwareReset hport, Regs.read_zero, read?_fb_of_empty (State.hardwareReset_fb _),
      read?_pl_of_empty (State.hardwareReset_pl _), rfl, rfl⟩

end Sys2Proof.Machine
end
